-- ==== Sys2Proof/Word.lean ====
section
/-! DEFINITION. The bit vectors of the block: bytes, and the two wider field widths (00_scope.md R11, 20_memory.md R46). -/

namespace Sys2Proof

/-- An unsigned 8-bit value: one element of a chunk, a frame or the buffer (00_scope.md R11). -/
abbrev Byte := BitVec 8

/-- A 2-byte field value (20_memory.md R46). -/
abbrev Half := BitVec 16

/-- A 4-byte field value (20_memory.md R46). -/
abbrev Word := BitVec 32

/-- A finite sequence of bytes; offset 0 is the first byte delivered (00_scope.md R11). -/
abbrev Bytes := List Byte

end Sys2Proof
end

