-- ==== Sys2Proof/Config.lean ====
section
/-! DEFINITION. What an implementation fixes: the named constants of 00_scope.md R8, the parameters of R9 that no
operation reads (opaque), the variant descriptor's type (10_state.md R24), and the values of the two parameters that
State.reset is built with (DESIGN CHOICE, logs 3 and 4). -/

namespace Sys2Proof

namespace Config

/-- `FRAME_LEN`: the inbound frame's length, and the readiness threshold (00_scope.md R8). -/
abbrev frameLen : Nat := 300

/-- `BUF_MAX`: the overflow bound (00_scope.md R8). -/
abbrev bufMax : Nat := 320

/-- `PREAMBLE_IN`: the inbound preamble at offsets 0..3 (00_scope.md R8). -/
abbrev preambleIn : Bytes := [0x55#8, 0xAA#8, 0xEB#8, 0x90#8]

/-- `PREAMBLE_OUT`: the outbound preamble at offsets 0..3 (00_scope.md R8). -/
abbrev preambleOut : Bytes := [0xAA#8, 0x55#8, 0x90#8, 0xEB#8]

/-- `CMD_FRAME_LEN`: the outbound command frame's length (00_scope.md R8). -/
abbrev cmdFrameLen : Nat := 20

/-- `TYPE_OFF`: the offset of the frame-type byte (00_scope.md R8). -/
abbrev typeOff : Nat := 4

/-- `DECL_LEN_OFF`: the offset of the declared payload length, which no operation reads (30_encoding.md R62). -/
abbrev declLenOff : Nat := 5

/-- `PAYLOAD_LO`: the first payload offset (00_scope.md R8). -/
abbrev payloadLo : Nat := 6

/-- `PAYLOAD_HI`: the last payload offset (00_scope.md R8). -/
abbrev payloadHi : Nat := 298

/-- `CSUM_OFF` = `FRAME_LEN` - 1: the offset of the checksum byte (00_scope.md R8). -/
abbrev csumOff : Nat := frameLen - 1

/-- `TYPE_SETTINGS` (00_scope.md R8). -/
abbrev typeSettings : Byte := 0x01#8

/-- `TYPE_CELLINFO` (00_scope.md R8). -/
abbrev typeCellinfo : Byte := 0x02#8

/-- `TYPE_DEVINFO` (00_scope.md R8). -/
abbrev typeDevinfo : Byte := 0x03#8

/-- `MASK_BYTES`: the number of cell-presence bytes (00_scope.md R8; 90_conflicts.md C1 keeps 3). -/
abbrev maskBytes : Nat := 3

/-- `CELLS_MAX` = 8 x `MASK_BYTES` (00_scope.md R8). -/
abbrev cellsMax : Nat := 8 * maskBytes

/-- `FAULT_BITS`: the width of the fault mask (00_scope.md R8). -/
abbrev faultBits : Nat := 16

/-- The bound of the two length fields of a request: `len` and `n` are unsigned 16-bit (30_encoding.md R70, R73). -/
abbrev lenBound : Nat := 65536

/-- `FAULT_NAME[0..15]`, a parameter with no value in the source; no operation outputs it (00_scope.md R9, log 14). -/
opaque faultName : Fin faultBits → String

/-- `HEAT_CUR_SCALE`, a parameter with no value in the source; no operation uses it (00_scope.md R9, log 14). -/
opaque heatCurScale : Rat

/-- `CMD_REQ_DEVINFO`, an outbound command code with no value in the source (00_scope.md R9, log 14). -/
opaque cmdReqDevinfo : Byte

/-- `CMD_REQ_CELLINFO`, an outbound command code with no value in the source (00_scope.md R9, log 14). -/
opaque cmdReqCellinfo : Byte

end Config

/-- The variant descriptor `V`: the absolute frame offset of every payload field, chosen at construction
(10_state.md R24, R26). Plain data; Machine/Descriptor.lean holds the checks of R25. -/
structure VariantDescriptor where
  /-- `mask_off[k]`: the cell-presence bytes (43_bitfield_extractor.md R141). -/
  maskOff : Vector Nat Config.maskBytes
  /-- `vtab_off`: the first entry of the cell-voltage table (R142). -/
  vtabOff : Nat
  /-- `vt_entries`: the table's capacity in entries, 32 or 24 by the variant's name (10_state.md R24, D40). -/
  vtEntries : Nat
  /-- `avg_off` (R143). -/
  avgOff : Nat
  /-- `delta_off` (R144). -/
  deltaOff : Nat
  /-- `maxidx_off` (R145). -/
  maxidxOff : Nat
  /-- `minidx_off` (R146). -/
  minidxOff : Nat
  /-- `balstate_off` (R147). -/
  balstateOff : Nat
  /-- `baldis_off` (R148). -/
  baldisOff : Nat
  /-- `balchg_off` (R149). -/
  balchgOff : Nat
  /-- `balcur_off` (R151). -/
  balcurOff : Nat
  /-- `packv_off` (R152). -/
  packvOff : Nat
  /-- `cur_off` (R153). -/
  curOff : Nat
  /-- `t1_off` (R154). -/
  t1Off : Nat
  /-- `t2_off` (R155). -/
  t2Off : Nat
  /-- `tmos_off` (R156). -/
  tmosOff : Nat
  /-- `fault_off` (R157). -/
  faultOff : Nat
  /-- `soc_off` (R158). -/
  socOff : Nat
  /-- `remcap_off` (R159). -/
  remcapOff : Nat
  /-- `totcap_off` (R160). -/
  totcapOff : Nat
  /-- `cyccnt_off` (R161). -/
  cyccntOff : Nat
  /-- `cyccap_off` (R162). -/
  cyccapOff : Nat
  /-- `runtime_off` (R163). -/
  runtimeOff : Nat
  /-- `chgen_off` (R164). -/
  chgenOff : Nat
  /-- `disen_off` (R165). -/
  disenOff : Nat
  /-- `heaten_off` (R166). -/
  heatenOff : Nat
  /-- `heatcur_off` (R167). -/
  heatcurOff : Nat
  /-- `vend_off`: the vendor window's first byte (R170). -/
  vendOff : Nat
  /-- `vend_len`: the vendor window's length in bytes (R170). -/
  vendLen : Nat
  deriving DecidableEq, Repr

namespace Config

/-- The descriptor State.reset is built with: TD, the synthetic test layout of 95_test_vectors.md 2.1. It is not the
device's layout, which no source gives. DESIGN CHOICE (log 3), unsafe for a claim about State.reset alone. -/
def resetVariant : VariantDescriptor where
  maskOff := #v[70, 71, 72]
  vtabOff := 6
  vtEntries := 32
  avgOff := 74
  deltaOff := 76
  maxidxOff := 78
  minidxOff := 79
  balstateOff := 172
  baldisOff := 204
  balchgOff := 205
  balcurOff := 170
  packvOff := 150
  curOff := 158
  t1Off := 162
  t2Off := 164
  tmosOff := 144
  faultOff := 166
  socOff := 173
  remcapOff := 174
  totcapOff := 178
  cyccntOff := 182
  cyccapOff := 186
  runtimeOff := 194
  chgenOff := 198
  disenOff := 199
  heatenOff := 200
  heatcurOff := 201
  vendOff := 6
  vendLen := 16

/-- The `MAX_CHUNK` State.reset is built with: the test parameter of 95_test_vectors.md. DESIGN CHOICE (log 4), unsafe
for a claim about State.reset alone. -/
def resetMaxChunk : Fin lenBound := 512

end Config

end Sys2Proof
end

