-- ==== Sys2Proof/Syntax.lean ====
section
/-! DEFINITION. The host requests and the instructions of the block: one constructor of Instr per row of
spec/opcode_table.json (30_encoding.md R66, R70-R73). -/

namespace Sys2Proof

/-- A host request: the byte sequence `q` delivered whole, `q[0]` and the bytes after it (30_encoding.md R70).
A request has at least the byte `q[0]` (DEDUCED, log 8). -/
structure Request where
  /-- `q[0]`, the operation code. -/
  op : Byte
  /-- `q[1..]`, everything after the operation code. -/
  tail : Bytes
  deriving DecidableEq, Repr

/-- The operand of a request, as the length fields assemble it (30_encoding.md R73): the operand itself, or, where the
length fields disagree with `|q|`, the bytes `q[1..]` as they came (the request then answers ERR_OPERAND). -/
inductive Operand (α : Type) where
  /-- `|q|` is what the length fields say; `a` is the operand. -/
  | assembled (a : α)
  /-- `|q|` is not what the length fields say; `tail` is `q[1..]`. -/
  | malformed (tail : Bytes)
  deriving DecidableEq, Repr

/-- The operands of CHECKSUM: the sequence `s` and the number `n` of its bytes to sum (30_encoding.md R73). -/
structure ChecksumArgs where
  n : Half
  s : Bytes
  deriving DecidableEq, Repr

/-- The frame types of the document's data model (30_encoding.md R66, 90_conflicts.md C6). -/
inductive FrameType where
  | cellinfo
  | deviceinfo
  | settings
  | unknown
  deriving DecidableEq, Repr

/-- The instructions: the nine host requests, and the four frame-type rows, which are the cases of DECODE and of
INGEST's decode (log 10). -/
inductive Instr where
  /-- APPEND, code 01 (40_frame_parser.md R100). -/
  | append (c : Operand Bytes)
  /-- IS_READY, code 02 (40_frame_parser.md R105). -/
  | isReady (o : Operand Unit)
  /-- TAKE, code 03 (40_frame_parser.md R106, R107). -/
  | take (o : Operand Unit)
  /-- RESET, code 04 (40_frame_parser.md R108). -/
  | reset (o : Operand Unit)
  /-- CHECKSUM, code 05 (41_checksum.md R120). -/
  | checksum (a : Operand ChecksumArgs)
  /-- VALIDATE, code 06 (41_checksum.md R122). -/
  | validate (f : Operand Bytes)
  /-- DECODE, code 07 (42_frame_decoder.md R130). -/
  | decode (f : Operand Bytes)
  /-- INGEST, code 08 (44_pipeline.md R180). -/
  | ingest (c : Operand Bytes)
  /-- RESERVED_OP, codes 00 and 09..FF, with whatever follows the code (30_encoding.md R72). -/
  | reservedOp (code : Byte) (tail : Bytes)
  /-- FRAME_CELLINFO: a frame whose type byte is 02 (42_frame_decoder.md R132). -/
  | frameCellinfo (f : Bytes)
  /-- FRAME_DEVICEINFO: a frame whose type byte is 03 (42_frame_decoder.md R133). -/
  | frameDeviceinfo (f : Bytes)
  /-- FRAME_SETTINGS: a frame whose type byte is 01 (42_frame_decoder.md R134). -/
  | frameSettings (f : Bytes)
  /-- FRAME_UNKNOWN: a frame whose type byte is none of 01, 02, 03 (42_frame_decoder.md R135). -/
  | frameUnknown (f : Bytes)
  deriving DecidableEq, Repr

end Sys2Proof
end

