-- ==== Sys2Proof/WellFormed.lean ====
section
/-! DEFINITION. Which terms of Instr are well-formed instructions: the conditions of 30_encoding.md R73 on a request,
and the match of a frame-type row (R66). A request that is not well formed is still executed (it answers ERR_OPERAND);
a frame-type or reserved-op term whose bytes are not its row's is no instruction at all (log 11). -/

namespace Sys2Proof

/-- The type byte `f[4]` of a whole frame, where `f` has the length of one (30_encoding.md R60, R66). -/
def frameTypeByte? (f : Bytes) : Option Byte :=
  if f.length = Config.frameLen then f[Config.typeOff]? else none

/-- A chunk of APPEND or INGEST: `len <= MAX_CHUNK` (30_encoding.md R73). -/
def chunkWf (maxChunk : Nat) : Operand Bytes → Bool
  | .assembled c => decide (c.length ≤ maxChunk)
  | .malformed _ => false

/-- No operand: `|q| = 1` (30_encoding.md R73). -/
def noOperandWf : Operand Unit → Bool
  | .assembled _ => true
  | .malformed _ => false

/-- CHECKSUM's operands: `len` is 16 bits wide and `n <= len` (30_encoding.md R73). -/
def checksumWf : Operand ChecksumArgs → Bool
  | .assembled a => decide (a.s.length < Config.lenBound) && decide (a.n.toNat ≤ a.s.length)
  | .malformed _ => false

/-- VALIDATE's frame, of any length a 16-bit `len` can give (30_encoding.md R73). -/
def anyFrameWf : Operand Bytes → Bool
  | .assembled f => decide (f.length < Config.lenBound)
  | .malformed _ => false

/-- DECODE's frame: `len = FRAME_LEN` (30_encoding.md R73). -/
def wholeFrameWf : Operand Bytes → Bool
  | .assembled f => decide (f.length = Config.frameLen)
  | .malformed _ => false

/-- The reserved codes: `0x00` and `0x09..0xFF` (30_encoding.md R72). -/
def reservedCode (code : Byte) : Bool :=
  decide (code.toNat = 0) || decide (9 ≤ code.toNat)

/-- A well-formed instruction of a block with the given `MAX_CHUNK` (30_encoding.md R66, R72, R73). -/
def Instr.wf (maxChunk : Nat) : Instr → Bool
  | .append c => chunkWf maxChunk c
  | .isReady o => noOperandWf o
  | .take o => noOperandWf o
  | .reset o => noOperandWf o
  | .checksum a => checksumWf a
  | .validate f => anyFrameWf f
  | .decode f => wholeFrameWf f
  | .ingest c => chunkWf maxChunk c
  | .reservedOp code _ => reservedCode code
  | .frameCellinfo f => decide (frameTypeByte? f = some Config.typeCellinfo)
  | .frameDeviceinfo f => decide (frameTypeByte? f = some Config.typeDevinfo)
  | .frameSettings f => decide (frameTypeByte? f = some Config.typeSettings)
  | .frameUnknown f =>
    match frameTypeByte? f with
    | some t => decide (t ≠ Config.typeSettings) && decide (t ≠ Config.typeCellinfo) && decide (t ≠ Config.typeDevinfo)
    | none => false

/-- The host requests among the instructions (format `host_request` of spec/opcode_table.json); the others are
frame-type rows (format `frame_type`). -/
def Instr.isRequest : Instr → Bool
  | .append _ | .isReady _ | .take _ | .reset _ | .checksum _ | .validate _ | .decode _ | .ingest _
  | .reservedOp _ _ => true
  | .frameCellinfo _ | .frameDeviceinfo _ | .frameSettings _ | .frameUnknown _ => false

end Sys2Proof
end

