-- ==== Sys2Proof/Decode.lean ====
section
/-! DEFINITION. From bytes to instructions and back. Two decoders, one for each format of spec/opcode_table.json: a host
request (30_encoding.md R70-R73) and a frame (30_encoding.md R66), each total and rejecting by name; then the encoder,
written from the same tables. -/

namespace Sys2Proof

/-- Why some bytes are no instruction at all. -/
inductive DecodeReject where
  /-- No byte: a request has at least `q[0]` (30_encoding.md R70, log 8). -/
  | emptyRequest
  /-- A frame is `FRAME_LEN` bytes long (30_encoding.md R60). -/
  | frameLength
  deriving DecidableEq, Repr

/-- `u16le` of two bytes of a request, low byte first (30_encoding.md R70). -/
def lenField (lo hi : Byte) : Half := hi ++ lo

/-- Operand assembly of APPEND, INGEST, VALIDATE and DECODE: `|q| = 3 + len`, operand `q[3..2+len]`
(30_encoding.md R73). The bound on `len` is the meaning's to check. -/
def assembleSeq (tail : Bytes) : Operand Bytes :=
  match tail with
  | lo :: hi :: data => if data.length = (lenField lo hi).toNat then .assembled data else .malformed tail
  | _ => .malformed tail

/-- Operand assembly of CHECKSUM: `|q| = 5 + len`, operands `q[5..4+len]` and `n` (30_encoding.md R73). -/
def assembleChecksum (tail : Bytes) : Operand ChecksumArgs :=
  match tail with
  | lo :: hi :: nlo :: nhi :: data =>
    if data.length = (lenField lo hi).toNat then .assembled ⟨lenField nlo nhi, data⟩ else .malformed tail
  | _ => .malformed tail

/-- Operand assembly of IS_READY, TAKE and RESET: `|q| = 1`, no operand (30_encoding.md R73). -/
def assembleNone (tail : Bytes) : Operand Unit :=
  match tail with
  | [] => .assembled ()
  | _ :: _ => .malformed tail

/-- The instruction of a host request; each code is matched against the whole of `q[0]` (30_encoding.md R71, R72). -/
def decodeRequest (q : Request) : Instr :=
  match q.op.toNat with
  | 0x01 => .append (assembleSeq q.tail)
  | 0x02 => .isReady (assembleNone q.tail)
  | 0x03 => .take (assembleNone q.tail)
  | 0x04 => .reset (assembleNone q.tail)
  | 0x05 => .checksum (assembleChecksum q.tail)
  | 0x06 => .validate (assembleSeq q.tail)
  | 0x07 => .decode (assembleSeq q.tail)
  | 0x08 => .ingest (assembleSeq q.tail)
  | _ => .reservedOp q.op q.tail

/-- The instruction of a request's raw bytes. -/
def decodeBytes (q : Bytes) : Except DecodeReject Instr :=
  match q with
  | [] => .error .emptyRequest
  | op :: tail => .ok (decodeRequest ⟨op, tail⟩)

/-- The type of a frame, by its type byte, matched whole (30_encoding.md R66, R67). -/
def frameTypeOf (t : Byte) : FrameType :=
  if t = Config.typeCellinfo then .cellinfo
  else if t = Config.typeDevinfo then .deviceinfo
  else if t = Config.typeSettings then .settings
  else .unknown

/-- The frame-type row of a frame (30_encoding.md R66). -/
def decodeFrame (f : Bytes) : Except DecodeReject Instr :=
  match frameTypeByte? f with
  | none => .error .frameLength
  | some t =>
    match frameTypeOf t with
    | .cellinfo => .ok (.frameCellinfo f)
    | .deviceinfo => .ok (.frameDeviceinfo f)
    | .settings => .ok (.frameSettings f)
    | .unknown => .ok (.frameUnknown f)

/-! ## Encoding -/

/-- A 16-bit length field, low byte first (30_encoding.md R70). -/
def encodeLen (n : Nat) : Bytes := [BitVec.ofNat 8 n, BitVec.ofNat 8 (n / 256)]

/-- `q[1..]` of APPEND, INGEST, VALIDATE and DECODE: `len`, then the data (30_encoding.md R73). -/
def encodeSeq : Operand Bytes → Bytes
  | .assembled c => encodeLen c.length ++ c
  | .malformed tail => tail

/-- `q[1..]` of CHECKSUM: `len`, `n`, then the data (30_encoding.md R73). -/
def encodeChecksum : Operand ChecksumArgs → Bytes
  | .assembled a => encodeLen a.s.length ++ encodeLen a.n.toNat ++ a.s
  | .malformed tail => tail

/-- `q[1..]` of IS_READY, TAKE and RESET: nothing (30_encoding.md R73). -/
def encodeNone : Operand Unit → Bytes
  | .assembled _ => []
  | .malformed tail => tail

/-- The bytes of an instruction: those of the request (30_encoding.md R71, R73), or the frame's own for a frame-type
row (R66). -/
def encode : Instr → Bytes
  | .append c => 0x01#8 :: encodeSeq c
  | .isReady o => 0x02#8 :: encodeNone o
  | .take o => 0x03#8 :: encodeNone o
  | .reset o => 0x04#8 :: encodeNone o
  | .checksum a => 0x05#8 :: encodeChecksum a
  | .validate f => 0x06#8 :: encodeSeq f
  | .decode f => 0x07#8 :: encodeSeq f
  | .ingest c => 0x08#8 :: encodeSeq c
  | .reservedOp code tail => code :: tail
  | .frameCellinfo f => f
  | .frameDeviceinfo f => f
  | .frameSettings f => f
  | .frameUnknown f => f

/-! ## Words of the opcode table -/

/-- The bytes of a table word: bit 0 is the least significant bit of the first byte. -/
def wordBytes (nbits w : Nat) : Bytes :=
  (List.range (nbits / 8)).map fun i => BitVec.ofNat 8 (w >>> (8 * i))

/-- `l` continued with zero bytes to length `n`. -/
def zeroExtendTo (n : Nat) (l : Bytes) : Bytes := l ++ List.replicate (n - l.length) 0#8

/-- How many bytes of length fields follow a request's code (30_encoding.md R73). -/
def lenFieldBytes (op : Byte) : Nat :=
  match op.toNat with
  | 0x01 | 0x06 | 0x07 | 0x08 => 2
  | 0x05 => 4
  | _ => 0

/-- How many bytes of data a request has after its length fields (30_encoding.md R73). -/
def dataBytes (op : Byte) (fields : Bytes) : Nat :=
  match op.toNat with
  | 0x01 | 0x05 | 0x06 | 0x07 | 0x08 => (lenField (fields.getD 0 0#8) (fields.getD 1 0#8)).toNat
  | _ => 0

/-- The request of a table word: the word's bytes, continued with zeros up to the length the request's own length fields
give it (log 12). -/
def requestOfWord (nbits w : Nat) : Option Request :=
  match wordBytes nbits w with
  | [] => none
  | op :: rest =>
    let fields := zeroExtendTo (lenFieldBytes op) rest
    some ⟨op, zeroExtendTo (lenFieldBytes op + dataBytes op fields) fields⟩

/-- The instruction the request decoder reads from a word of spec/opcode_table.json. The table gives FRAME_CELLINFO,
FRAME_DEVICEINFO and FRAME_SETTINGS the same 8-bit values as IS_READY, TAKE and APPEND; a word is read as a request
(log 12). -/
def decodeTableWord (nbits w : Nat) : Option Instr := (requestOfWord nbits w).map decodeRequest

end Sys2Proof
end

