-- ==== Sys2Proof/Machine/Descriptor.lean ====
section
/-! DEFINITION. The well-formedness checks of the variant descriptor (10_state.md R25). -/

namespace Sys2Proof.Machine

/-- Every field of 10_state.md R24 but the voltage table, with its width in bytes: (offset, width). Each is read whatever
the cell count is. -/
def fixedFields (V : VariantDescriptor) : List (Nat × Nat) :=
  V.maskOff.toList.map (fun o => (o, 1)) ++
  [(V.avgOff, 2), (V.deltaOff, 2), (V.maxidxOff, 1), (V.minidxOff, 1), (V.balstateOff, 1),
   (V.baldisOff, 1), (V.balchgOff, 1), (V.balcurOff, 2), (V.packvOff, 4), (V.curOff, 4), (V.t1Off, 2), (V.t2Off, 2),
   (V.tmosOff, 2), (V.faultOff, 2)] ++
  [(V.socOff, 1), (V.remcapOff, 4), (V.totcapOff, 4), (V.cyccntOff, 4), (V.cyccapOff, 4), (V.runtimeOff, 4),
   (V.chgenOff, 1), (V.disenOff, 1), (V.heatenOff, 1), (V.heatcurOff, 2), (V.vendOff, V.vendLen)]

/-- Every field of 10_state.md R24 with its width in bytes. The voltage table stands with its first entry; its extent is
WF_VTAB's (log 13). -/
def descriptorFields (V : VariantDescriptor) : List (Nat × Nat) := (V.vtabOff, 2) :: fixedFields V

/-- `WF_PAYLOAD`: every field lies in offsets 6..298 (10_state.md R25). -/
def wfPayload (V : VariantDescriptor) : Bool :=
  (descriptorFields V).all fun ow =>
    decide (Config.payloadLo ≤ ow.1) && decide (ow.1 + ow.2 - 1 ≤ Config.payloadHi)

/-- `WF_VTAB`: the table holds every entry a popcount can select, and ends inside the payload (10_state.md R25). -/
def wfVtab (V : VariantDescriptor) : Bool :=
  decide (Config.cellsMax ≤ V.vtEntries) && decide (V.vtabOff + 2 * V.vtEntries - 1 ≤ Config.payloadHi)

/-- `WF_MASK`: the cell-presence offsets are pairwise distinct (10_state.md R25). -/
def wfMask (V : VariantDescriptor) : Bool := decide V.maskOff.toList.Nodup

/-- `WF_DOWNSTREAM`: the four aggregate fields lie after the voltage table (10_state.md R25). -/
def wfDownstream (V : VariantDescriptor) : Bool :=
  [V.avgOff, V.deltaOff, V.maxidxOff, V.minidxOff].all fun o => decide (V.vtabOff + 2 * V.vtEntries ≤ o)

/-- `WF_VEND`: the vendor window is not empty (10_state.md R25). -/
def wfVend (V : VariantDescriptor) : Bool := decide (1 ≤ V.vendLen)

/-- A well-formed descriptor passes every named check (10_state.md R25). -/
def descriptorWf (V : VariantDescriptor) : Bool :=
  wfPayload V && wfVtab V && wfMask V && wfDownstream V && wfVend V

end Sys2Proof.Machine
end

