-- ==== Sys2Proof/Machine/Response.lean ====
section
/-! DEFINITION. What the block answers: statuses, diagnostic flags, records, events and responses as abstract data
(30_encoding.md R75-R79). Their byte form is Machine/Serialise.lean's. -/

namespace Sys2Proof.Machine

/-- `r[0]`: the three ways an operation ends (00_scope.md R14, 30_encoding.md R77). -/
inductive Status where
  | ok
  | badOp
  | errOperand
  deriving DecidableEq, Repr

/-- `r[1]`: the diagnostic flags of one response (30_encoding.md R78). Bits 7..4 of the byte are reserved and have no
field here. -/
structure Diag where
  /-- Bit 0, `OVERFLOW`. -/
  overflow : Bool := false
  /-- Bit 1, `RESYNC`. -/
  resync : Bool := false
  /-- Bit 2, `CSUM_MISMATCH`. -/
  csumMismatch : Bool := false
  /-- Bit 3, `UNKNOWN_TYPE`. -/
  unknownType : Bool := false
  deriving DecidableEq, Repr

/-- The decoded balancing state (43_bitfield_extractor.md R147). -/
inductive BalState where
  | off
  | charging
  | discharging
  /-- A status byte of 3 or more, carried raw. -/
  | invalid (b : Byte)
  deriving DecidableEq, Repr

/-- The cell-info record (30_encoding.md R76, 43_bitfield_extractor.md R140). Scaled fields are raw counts at their wire
width (00_scope.md R15). -/
structure CellInfo where
  /-- `cell_count` = N (R141). -/
  cellCount : Nat
  /-- `cell_mv[0..N-1]` (R142). -/
  cellMv : List Half
  /-- `avg_mv` (R143). -/
  avgMv : Half
  /-- `delta_mv` (R144). -/
  deltaMv : Half
  /-- `max_idx` (R145). -/
  maxIdx : Byte
  /-- `min_idx` (R146). -/
  minIdx : Byte
  /-- `bal_state_raw` (R147). -/
  balStateRaw : Byte
  /-- `bal_dis_idx` (R148). -/
  balDisIdx : Byte
  /-- `bal_chg_idx` (R149). -/
  balChgIdx : Byte
  /-- `bal_active[0..N-1]` (R150). -/
  balActive : List Bool
  /-- `bal_cur_raw` (R151). -/
  balCurRaw : Half
  /-- `pack_mv_raw` (R152). -/
  packMvRaw : Word
  /-- `cur_ma_raw` (R153). -/
  curMaRaw : Word
  /-- `t1_raw` (R154). -/
  t1Raw : Half
  /-- `t2_raw` (R155). -/
  t2Raw : Half
  /-- `tmos_raw` (R156). -/
  tmosRaw : Half
  /-- `fault_mask` (R157). -/
  faultMask : Half
  /-- `soc` (R158). -/
  soc : Byte
  /-- `remcap_raw` (R159). -/
  remcapRaw : Word
  /-- `totcap_raw` (R160). -/
  totcapRaw : Word
  /-- `cyccnt` (R161). -/
  cyccnt : Word
  /-- `cyccap_raw` (R162). -/
  cyccapRaw : Word
  /-- `runtime_s` (R163). -/
  runtimeS : Word
  /-- `chg_en` (R164). -/
  chgEn : Bool
  /-- `dis_en` (R165). -/
  disEn : Bool
  /-- `heat_en` (R166). -/
  heatEn : Bool
  /-- `heat_cur_raw` (R167). -/
  heatCurRaw : Half
  deriving DecidableEq, Repr

/-- The device-info record (30_encoding.md R79, 43_bitfield_extractor.md R170). -/
structure DeviceInfo where
  /-- `vendor_len`. -/
  vendorLen : Nat
  /-- `vendor[0..vendor_len-1]`. -/
  vendor : Bytes
  deriving DecidableEq, Repr

/-- The event of a decode (30_encoding.md R75). -/
inductive Event where
  /-- `None`: an INGEST that produced no event. -/
  | noEvent
  /-- `CellInfo(r)`. -/
  | cellInfo (r : CellInfo)
  /-- `DeviceInfo(d)`. -/
  | deviceInfo (d : DeviceInfo)
  /-- `Unhandled(t)`, with the raw frame type. -/
  | unhandled (t : Byte)
  deriving DecidableEq, Repr

/-- The result part of a response, per operation (30_encoding.md R77). -/
inductive Result where
  /-- No result: RESET, and every response whose status is not OK. -/
  | empty
  /-- APPEND and IS_READY: the ready bit. -/
  | ready (b : Bool)
  /-- TAKE: `present = 0`, or `present = 1` and the frame. -/
  | taken (f : Option Bytes)
  /-- CHECKSUM: the sum. -/
  | sum (b : Byte)
  /-- VALIDATE: the verdict. -/
  | verdict (b : Bool)
  /-- DECODE and INGEST: the event. -/
  | event (e : Event)
  deriving DecidableEq, Repr

/-- One response (30_encoding.md R77). -/
structure Response where
  status : Status
  diag : Diag
  result : Result
  deriving DecidableEq, Repr

end Sys2Proof.Machine
end

