-- ==== Sys2Proof/Machine/State.lean ====
section
/-! DEFINITION. The block's state (10_state.md R20-R30), its construction, its reset, and the reasons a step can stop. -/

namespace Sys2Proof.Machine

/-- The buffer's storage `buf` as a list of (position, byte) pairs, positions strictly rising, no entry equal to `0x00`,
which is what an unlisted position reads as (log 5). Machine/Ops.lean holds its operations and its form `Memory.wf`. -/
abbrev Memory := List Host.Cell

/-- The machine's state. -/
structure State where
  /-- `buf[0..299]` (10_state.md R20). -/
  buf : Memory
  /-- `count`: the bytes appended since the last clear, those beyond `FRAME_LEN` included (10_state.md R21). -/
  count : Nat
  /-- `V`, fixed at construction (10_state.md R24, R26). -/
  variant : VariantDescriptor
  /-- `MAX_CHUNK`, fixed at construction (00_scope.md R9, 30_encoding.md R73). -/
  maxChunk : Fin Config.lenBound
  /-- The requests the host has issued and the block has not taken, oldest first. The model's own field (log 1). -/
  requests : List Request
  /-- The responses the block has emitted, oldest first. The model's own field (log 2). -/
  responses : List Response
  deriving DecidableEq, Repr

/-- The faults of the block: none. "No condition of the block transfers control, saves state, changes a mode or stops
the block" (60_exceptions.md R200). -/
inductive Fault where
  deriving DecidableEq, Repr

/-- Why a step can be refused. -/
inductive Refusal where
  /-- An instruction that has no meaning in this model yet. Raised by exec's arms only (none today). Safe. -/
  | notModelled (mnemonic : String)
  /-- The block's descriptor fails a check of 10_state.md R25, so no block is built and no operation of it has a meaning
  (93_implementation_defined.md I5, log 7). Raised by every meaning, and by the construction. Safe. -/
  | illFormedDescriptor
  /-- The term of Instr is no instruction: a frame-type row with a frame that is not of its type or not 300 bytes long,
  or a reserved-op row with a defined code. No decoder yields such a term (log 11). Raised by the meanings of the four
  frame-type rows and of the reserved operation. Safe. -/
  | notAnInstruction
  deriving DecidableEq, Repr

/-- The block as it stands right after construction with descriptor `V`, parameter `maxChunk` and whatever bytes `b` the
buffer happens to hold (70_reset_and_hazards.md R220, 10_state.md R30). -/
def State.construct (V : VariantDescriptor) (maxChunk : Fin Config.lenBound) (b : Memory) : State where
  buf := b
  count := 0
  variant := V
  maxChunk := maxChunk
  requests := []
  responses := []

/-- The machine right after reset (10_state.md R30): constructed with the descriptor and the parameter of logs 3 and 4,
and a buffer in which nothing is listed (log 5). -/
def State.reset : State := State.construct Config.resetVariant Config.resetMaxChunk []

end Sys2Proof.Machine
end

