-- ==== Sys2Proof/Machine/Ops.lean ====
section
/-! DEFINITION. The named operations over the buffer, the count and the port, which the meanings share. The block has no
trap, so there is no exception entry and no return from one (60_exceptions.md R200, R208, R209); in their place stand the
three replies. -/

namespace Sys2Proof.Machine

/-! ## The buffer's storage -/

/-- The canonical form of the buffer: positions strictly rising, below `FRAME_LEN`, and no entry equal to what an
unlisted position reads as. -/
abbrev Memory.wf (m : Memory) : Prop :=
  m.Pairwise (fun a b => a.1 < b.1) ∧ ∀ c ∈ m, c.1 < Config.frameLen ∧ c.2 ≠ 0#8

/-- The byte at a position; an unlisted position reads `0x00` (DESIGN CHOICE, log 5: no rule reads one). -/
def Memory.read : Memory → Nat → Byte
  | [], _ => 0#8
  | (a, b) :: m, p => if a = p then b else Memory.read m p

/-- The entry of a byte `b` at position `p` in canonical form: none for `0x00`. -/
def memoryEntry (p : Nat) (b : Byte) : Memory := if b = 0#8 then [] else [(p, b)]

/-- `BufWrite(p, b)` on the list, which keeps its canonical form (00_scope.md R13). -/
def Memory.write : Memory → Nat → Byte → Memory
  | [], p, b => memoryEntry p b
  | (a, x) :: m, p, b =>
    if p < a then memoryEntry p b ++ (a, x) :: m
    else if p = a then memoryEntry p b ++ m
    else (a, x) :: Memory.write m p b

/-- The loop of step S3: byte `c[j]` goes to position `at + j` where that position is below `FRAME_LEN`
(40_frame_parser.md R103). -/
def storeChunk (m : Memory) (pos : Nat) : Bytes → Memory
  | [] => m
  | b :: c => storeChunk (if pos < Config.frameLen then m.write pos b else m) (pos + 1) c

/-- `buf[0..FRAME_LEN-1]` as a value (20_memory.md R54). -/
def readFrame (m : Memory) : Bytes := (List.range Config.frameLen).map m.read

/-! ## The count, and the three steps of APPEND -/

/-- `count <- 0`: the buffer is cleared; its storage is not written (40_frame_parser.md R108). -/
def clearCount (s : State) : State := { s with count := 0 }

/-- Step S1's test: more than `BUF_MAX` bytes accumulated and not taken (40_frame_parser.md R101). -/
def overflowing (s : State) : Bool := decide (Config.bufMax < s.count)

/-- `begins_with_preamble(c)` (30_encoding.md R61). -/
def beginsWithPreamble (c : Bytes) : Bool :=
  decide (4 ≤ c.length) && decide (c.take 4 = Config.preambleIn)

/-- Step S1, the overflow guard (40_frame_parser.md R101). -/
def stepS1 (s : State) : State := if overflowing s then clearCount s else s

/-- Step S2, the preamble resynchronisation (40_frame_parser.md R102). -/
def stepS2 (c : Bytes) (s : State) : State := if beginsWithPreamble c then clearCount s else s

/-- Step S3, the concatenation (40_frame_parser.md R103). -/
def stepS3 (c : Bytes) (s : State) : State :=
  { s with buf := storeChunk s.buf s.count c, count := s.count + c.length }

/-- Steps S1, S2 and S3 in this order (40_frame_parser.md R100). -/
def accumulate (c : Bytes) (s : State) : State := stepS3 c (stepS2 c (stepS1 s))

/-! ## Replies -/

/-- The block emits one response (30_encoding.md R77). -/
def emit (s : State) (r : Response) : State := { s with responses := s.responses ++ [r] }

/-- `respond(OK, result)` with the flags raised along the way (00_scope.md R13). -/
def replyOk (s : State) (d : Diag) (x : Result) : Host.Outcome State Fault Refusal := .next (emit s ⟨.ok, d, x⟩)

/-- The response `BAD_OP`: no result, no flag, no state change (30_encoding.md R72, 60_exceptions.md R206). -/
def replyBadOp (s : State) : Host.Outcome State Fault Refusal := .next (emit s ⟨.badOp, {}, .empty⟩)

/-- The response `ERR_OPERAND`: no result, no flag, no state change (30_encoding.md R73, 60_exceptions.md R206). -/
def replyErrOperand (s : State) : Host.Outcome State Fault Refusal := .next (emit s ⟨.errOperand, {}, .empty⟩)

/-- An operation of a block whose descriptor is well formed; any other block has no operation (10_state.md R25). -/
def onBuilt (s : State) (run : Host.Outcome State Fault Refusal) : Host.Outcome State Fault Refusal :=
  if descriptorWf s.variant then run else .refused .illFormedDescriptor

/-- A request: ERR_OPERAND unless its operand is assembled and accepted, and the operation's effect otherwise
(60_exceptions.md R207, checks 1 to 3). -/
def onRequest {α : Type} (o : Operand α) (accepts : α → Bool) (s : State)
    (run : α → Host.Outcome State Fault Refusal) : Host.Outcome State Fault Refusal :=
  onBuilt s (match o with
    | .assembled a => if accepts a then run a else replyErrOperand s
    | .malformed _ => replyErrOperand s)

/-- The construction of a block: refused for a descriptor that fails a check (10_state.md R25, 70_reset_and_hazards.md
R220, R223). -/
def build (V : VariantDescriptor) (maxChunk : Fin Config.lenBound) (b : Memory) : Host.Outcome State Fault Refusal :=
  let s := State.construct V maxChunk b
  onBuilt s (.next s)

/-! ## The request port -/

/-- The oldest request the host has issued, and the state once the block has taken it (20_memory.md R49). -/
def fetch (s : State) : Option (Request × State) :=
  match s.requests with
  | [] => none
  | q :: qs => some (q, { s with requests := qs })

/-- A request placed so that the block takes it next. -/
def placeRequest (s : State) (q : Request) : State := { s with requests := q :: s.requests }

/-- Between requests the block holds its state unchanged (60_exceptions.md R216, log 9). -/
def idle (s : State) : State := s

end Sys2Proof.Machine
end

