-- ==== Sys2Proof/Machine/Operands.lean ====
section
/-! DEFINITION. Operand forms: the reading primitives of 00_scope.md R12 and R13, and the ranges of 30_encoding.md R73 an
operation checks. -/

namespace Sys2Proof.Machine

/-! ## Reading primitives -/

/-- `u8(f, o) = f[o]` (00_scope.md R12). Under a well-formed descriptor no read leaves the frame (00_scope.md R13), so
the default is never read. -/
def u8 (f : Bytes) (o : Nat) : Byte := f.getD o 0#8

/-- `u16le(f, o)`: the byte at the lower offset is the less significant (20_memory.md R41). -/
def u16le (f : Bytes) (o : Nat) : Half := u8 f (o + 1) ++ u8 f o

/-- `u32le(f, o)` (20_memory.md R41). -/
def u32le (f : Bytes) (o : Nat) : Word := u8 f (o + 3) ++ u8 f (o + 2) ++ u8 f (o + 1) ++ u8 f o

/-- `u16be(f, o)`: high byte first (20_memory.md R42). -/
def u16be (f : Bytes) (o : Nat) : Half := u8 f o ++ u8 f (o + 1)

/-- `sext_N(u)`, two's complement (00_scope.md R12; the spec's own reading of "signed", log 15). -/
def sext (n u : Nat) : Int := if u < 2 ^ (n - 1) then (u : Int) else (u : Int) - 2 ^ n

/-- `s16le(f, o) = sext_16(u16le(f, o))` (00_scope.md R12). -/
def s16le (f : Bytes) (o : Nat) : Int := sext 16 (u16le f o).toNat

/-- `s32le(f, o) = sext_32(u32le(f, o))` (00_scope.md R12). -/
def s32le (f : Bytes) (o : Nat) : Int := sext 32 (u32le f o).toNat

/-- `popcount(b)`: the number of bits `i` in 0..7 with `b[i] = 1` (00_scope.md R12). -/
def popcount (b : Byte) : Nat := (List.range 8).countP fun i => b.getLsbD i

/-- `MemRead(f, o, n) = f[o..o+n-1]` (00_scope.md R13). -/
def memRead (f : Bytes) (o n : Nat) : Bytes := (f.drop o).take n

/-! ## Operand ranges -/

/-- APPEND and INGEST: `len <= MAX_CHUNK` (30_encoding.md R73). -/
def chunkAccepted (s : State) (c : Bytes) : Bool := decide (c.length ≤ s.maxChunk.val)

/-- IS_READY, TAKE, RESET: there is no operand to check (30_encoding.md R73). -/
def nothingAccepted (_ : Unit) : Bool := true

/-- CHECKSUM: `n <= len` (30_encoding.md R73, 41_checksum.md R121). -/
def checksumAccepted (a : ChecksumArgs) : Bool := decide (a.n.toNat ≤ a.s.length)

/-- VALIDATE: a frame of any length (30_encoding.md R73, 41_checksum.md R123). -/
def anyFrameAccepted (_ : Bytes) : Bool := true

/-- DECODE: `len = FRAME_LEN` (30_encoding.md R73, 42_frame_decoder.md R130). -/
def wholeFrameAccepted (f : Bytes) : Bool := decide (f.length = Config.frameLen)

end Sys2Proof.Machine
end

