-- ==== Sys2Proof/Machine/Checksum.lean ====
section
/-! DEFINITION. The checksum validator: CHECKSUM and VALIDATE (41_checksum.md). Both are pure (20_memory.md R47). -/

namespace Sys2Proof.Machine

/-- `CHECKSUM(s, n)`: the first `n` bytes added into an 8-bit accumulator whose carry is dropped (41_checksum.md R120). -/
def checksum (s : Bytes) (n : Nat) : Byte := (s.take n).foldl (fun acc b => acc + b) 0#8

/-- `VALIDATE(f)`: 0 for the empty frame, else the sum of all bytes but the last against the last (41_checksum.md R122,
R123). -/
def validFrame (f : Bytes) : Bool :=
  if f.length = 0 then false else decide (checksum f (f.length - 1) = u8 f (f.length - 1))

/-- CHECKSUM (41_checksum.md R120, R121). -/
def execChecksum (a : Operand ChecksumArgs) (s : State) : Host.Outcome State Fault Refusal :=
  onRequest a checksumAccepted s fun a => replyOk s {} (.sum (checksum a.s a.n.toNat))

/-- VALIDATE (41_checksum.md R122). -/
def execValidate (f : Operand Bytes) (s : State) : Host.Outcome State Fault Refusal :=
  onRequest f anyFrameAccepted s fun f => replyOk s {} (.verdict (validFrame f))

end Sys2Proof.Machine
end

