-- ==== Sys2Proof/Machine/Flags.lean ====
section
/-! DEFINITION. Every flag computation of the spec: what is derived from the count (10_state.md R22, R23), the diagnostic
flags each step raises (30_encoding.md R78), and their byte. -/

namespace Sys2Proof.Machine

/-- `ready = (count >= FRAME_LEN)` (10_state.md R23). -/
def State.ready (s : State) : Bool := decide (Config.frameLen ≤ s.count)

/-- The FrameBuffer's states (10_state.md R22). -/
inductive FbState where
  | idle
  | accumulating
  | ready
  deriving DecidableEq, Repr

/-- `fb_state`, derived from the count (10_state.md R22). -/
def State.fbState (s : State) : FbState :=
  if s.count = 0 then .idle else if s.count < Config.frameLen then .accumulating else .ready

/-- The flags APPEND's steps raise: `OVERFLOW` by S1 (40_frame_parser.md R101), `RESYNC` by S2 where bytes were discarded
(R102). -/
def accumulateDiag (c : Bytes) (s : State) : Diag where
  overflow := overflowing s
  resync := beginsWithPreamble c && decide (0 < (stepS1 s).count)

/-- Every flag raised along the way is reported together (60_exceptions.md R207). -/
def Diag.union (a b : Diag) : Diag where
  overflow := a.overflow || b.overflow
  resync := a.resync || b.resync
  csumMismatch := a.csumMismatch || b.csumMismatch
  unknownType := a.unknownType || b.unknownType

/-- The flag of a frame that fails its checksum (44_pipeline.md R180, 60_exceptions.md R202). -/
def Diag.mismatch : Diag := { csumMismatch := true }

/-- The flag of an unknown frame type (42_frame_decoder.md R135, 60_exceptions.md R204). -/
def Diag.unknown : Diag := { unknownType := true }

/-- `r[1]`: bit 0 `OVERFLOW`, bit 1 `RESYNC`, bit 2 `CSUM_MISMATCH`, bit 3 `UNKNOWN_TYPE`, bits 7..4 zero
(30_encoding.md R78). -/
def Diag.toByte (d : Diag) : Byte :=
  (BitVec.ofBoolListLE [d.overflow, d.resync, d.csumMismatch, d.unknownType]).setWidth 8

end Sys2Proof.Machine
end

