-- ==== Sys2Proof/Machine/FrameBuffer.lean ====
section
/-! DEFINITION. The frame parser's operations: APPEND, IS_READY, TAKE, RESET (40_frame_parser.md), and the reserved
operation codes (30_encoding.md R72). -/

namespace Sys2Proof.Machine

/-- APPEND: steps S1, S2, S3, then the ready bit (40_frame_parser.md R100-R103, R110). -/
def execAppend (c : Operand Bytes) (s : State) : Host.Outcome State Fault Refusal :=
  onRequest c (chunkAccepted s) s fun c =>
    replyOk (accumulate c s) (accumulateDiag c s) (.ready (accumulate c s).ready)

/-- IS_READY: the ready bit (40_frame_parser.md R105). -/
def execIsReady (o : Operand Unit) (s : State) : Host.Outcome State Fault Refusal :=
  onRequest o nothingAccepted s fun _ => replyOk s {} (.ready s.ready)

/-- TAKE: the first 300 bytes and a cleared buffer where ready (40_frame_parser.md R106), nothing otherwise (R107). -/
def execTake (o : Operand Unit) (s : State) : Host.Outcome State Fault Refusal :=
  onRequest o nothingAccepted s fun _ =>
    if s.ready then replyOk (clearCount s) {} (.taken (some (readFrame s.buf))) else replyOk s {} (.taken none)

/-- RESET: the count cleared, nothing else written (40_frame_parser.md R108). -/
def execReset (o : Operand Unit) (s : State) : Host.Outcome State Fault Refusal :=
  onRequest o nothingAccepted s fun _ => replyOk (clearCount s) {} .empty

/-- RESERVED_OP: BAD_OP, whatever follows the code (30_encoding.md R72, 60_exceptions.md R207). -/
def execReservedOp (code : Byte) (_tail : Bytes) (s : State) : Host.Outcome State Fault Refusal :=
  onBuilt s (if reservedCode code then replyBadOp s else .refused .notAnInstruction)

end Sys2Proof.Machine
end

