-- ==== Sys2Proof/Machine/Extractor.lean ====
section
/-! DEFINITION. The bitfield extractor: one definition per field rule of 43_bitfield_extractor.md, and the two field
decoders. All are functions of the descriptor and the frame. -/

namespace Sys2Proof.Machine

/-! ## CellInfo -/

/-- `cell_count(V, f)`: the set bits of the cell-presence bytes (43_bitfield_extractor.md R141). -/
def cellCount (V : VariantDescriptor) (f : Bytes) : Nat := (V.maskOff.toList.map fun o => popcount (u8 f o)).sum

/-- `cell_mv[0..N-1]`: table positions 0..N-1 in order (43_bitfield_extractor.md R142). -/
def cellVoltages (V : VariantDescriptor) (f : Bytes) (n : Nat) : List Half :=
  (List.range n).map fun i => u16le f (V.vtabOff + 2 * i)

/-- `bal_state(b)` (43_bitfield_extractor.md R147). -/
def balState (b : Byte) : BalState :=
  match b.toNat with
  | 0 => .off
  | 1 => .charging
  | 2 => .discharging
  | _ => .invalid b

/-- `balance_array(N, r)` of the balancing state byte and the two target indices (43_bitfield_extractor.md R150; indices
count from 0 by the spec's decision D23). -/
def balanceArray (n : Nat) (stateRaw chgIdx disIdx : Byte) : List Bool :=
  (List.range n).map fun i =>
    match balState stateRaw with
    | .off => false
    | .charging => decide (i = chgIdx.toNat)
    | .discharging => decide (i = disIdx.toNat)
    | .invalid _ => false

/-- An enable flag: any nonzero byte is true (43_bitfield_extractor.md R164-R166). -/
def enabled (f : Bytes) (o : Nat) : Bool := decide (u8 f o ≠ 0#8)

/-- `EXTRACT_CELLINFO(V, f)` (43_bitfield_extractor.md R140, R168). -/
def extractCellInfo (V : VariantDescriptor) (f : Bytes) : CellInfo where
  cellCount := cellCount V f
  cellMv := cellVoltages V f (cellCount V f)
  avgMv := u16le f V.avgOff
  deltaMv := u16le f V.deltaOff
  maxIdx := u8 f V.maxidxOff
  minIdx := u8 f V.minidxOff
  balStateRaw := u8 f V.balstateOff
  balDisIdx := u8 f V.baldisOff
  balChgIdx := u8 f V.balchgOff
  balActive := balanceArray (cellCount V f) (u8 f V.balstateOff) (u8 f V.balchgOff) (u8 f V.baldisOff)
  balCurRaw := u16le f V.balcurOff
  packMvRaw := u32le f V.packvOff
  curMaRaw := u32le f V.curOff
  t1Raw := u16le f V.t1Off
  t2Raw := u16le f V.t2Off
  tmosRaw := u16le f V.tmosOff
  faultMask := u16be f V.faultOff
  soc := u8 f V.socOff
  remcapRaw := u32le f V.remcapOff
  totcapRaw := u32le f V.totcapOff
  cyccnt := u32le f V.cyccntOff
  cyccapRaw := u32le f V.cyccapOff
  runtimeS := u32le f V.runtimeOff
  chgEn := enabled f V.chgenOff
  disEn := enabled f V.disenOff
  heatEn := enabled f V.heatenOff
  heatCurRaw := u16le f V.heatcurOff

/-! ## DeviceInfo -/

/-- The least `j` with `w[j] = 0x00`, or `|w|` if there is none (43_bitfield_extractor.md R170). -/
def firstNul : Bytes → Nat
  | [] => 0
  | b :: w => if b = 0#8 then 0 else firstNul w + 1

/-- `EXTRACT_DEVINFO(V, f)`: the vendor window cut at its first NUL, its bytes unchanged (43_bitfield_extractor.md
R170-R172). -/
def extractDeviceInfo (V : VariantDescriptor) (f : Bytes) : DeviceInfo where
  vendorLen := firstNul (memRead f V.vendOff V.vendLen)
  vendor := (memRead f V.vendOff V.vendLen).take (firstNul (memRead f V.vendOff V.vendLen))

end Sys2Proof.Machine
end

