-- ==== Sys2Proof/Machine/FrameDecoder.lean ====
section
/-! DEFINITION. The frame decoder: what each frame type yields, the dispatch, DECODE and the four frame-type rows
(42_frame_decoder.md). All are pure (20_memory.md R47). -/

namespace Sys2Proof.Machine

/-- What a decode yields: the flag it raises and its event. -/
abbrev Decoded := Diag × Event

/-- Type 0x02 (42_frame_decoder.md R132). -/
def decodeCellinfo (V : VariantDescriptor) (f : Bytes) : Decoded := ({}, .cellInfo (extractCellInfo V f))

/-- Type 0x03 (42_frame_decoder.md R133). -/
def decodeDeviceinfo (V : VariantDescriptor) (f : Bytes) : Decoded := ({}, .deviceInfo (extractDeviceInfo V f))

/-- Type 0x01: `Unhandled(0x01)`, no payload read, no flag (42_frame_decoder.md R134). -/
def decodeSettings : Decoded := ({}, .unhandled Config.typeSettings)

/-- Any other type `t`: `Unhandled(t)` and `UNKNOWN_TYPE` (42_frame_decoder.md R135). -/
def decodeUnknown (t : Byte) : Decoded := (Diag.unknown, .unhandled t)

/-- `DECODE(f)`: the dispatch on `f[4]`; nothing else of the header is looked at (42_frame_decoder.md R130, R136). -/
def decodeEvent (V : VariantDescriptor) (f : Bytes) : Decoded :=
  match frameTypeOf (u8 f Config.typeOff) with
  | .cellinfo => decodeCellinfo V f
  | .deviceinfo => decodeDeviceinfo V f
  | .settings => decodeSettings
  | .unknown => decodeUnknown (u8 f Config.typeOff)

/-- DECODE (42_frame_decoder.md R130, R131). -/
def execDecode (f : Operand Bytes) (s : State) : Host.Outcome State Fault Refusal :=
  onRequest f wholeFrameAccepted s fun f =>
    replyOk s (decodeEvent s.variant f).1 (.event (decodeEvent s.variant f).2)

/-- A frame-type row: the row's decode of a whole frame of the row's type; any other term is no instruction (log 11). -/
def onFrameRow (row : FrameType) (f : Bytes) (s : State) (d : Decoded) : Host.Outcome State Fault Refusal :=
  onBuilt s (if (frameTypeByte? f).map frameTypeOf = some row then replyOk s d.1 (.event d.2)
    else .refused .notAnInstruction)

/-- FRAME_CELLINFO (42_frame_decoder.md R132). -/
def execFrameCellinfo (f : Bytes) (s : State) : Host.Outcome State Fault Refusal :=
  onFrameRow .cellinfo f s (decodeCellinfo s.variant f)

/-- FRAME_DEVICEINFO (42_frame_decoder.md R133). -/
def execFrameDeviceinfo (f : Bytes) (s : State) : Host.Outcome State Fault Refusal :=
  onFrameRow .deviceinfo f s (decodeDeviceinfo s.variant f)

/-- FRAME_SETTINGS (42_frame_decoder.md R134). -/
def execFrameSettings (f : Bytes) (s : State) : Host.Outcome State Fault Refusal :=
  onFrameRow .settings f s decodeSettings

/-- FRAME_UNKNOWN (42_frame_decoder.md R135). -/
def execFrameUnknown (f : Bytes) (s : State) : Host.Outcome State Fault Refusal :=
  onFrameRow .unknown f s (decodeUnknown (u8 f Config.typeOff))

end Sys2Proof.Machine
end

