-- ==== Sys2Proof/Machine/Pipeline.lean ====
section
/-! DEFINITION. INGEST, the composite operation (44_pipeline.md R180). -/

namespace Sys2Proof.Machine

/-- What INGEST yields for a frame it took: nothing and `CSUM_MISMATCH` where the checksum fails, else the decode
(44_pipeline.md R180, 60_exceptions.md R202). -/
def ingestFrame (V : VariantDescriptor) (f : Bytes) : Decoded :=
  if validFrame f then decodeEvent V f else (Diag.mismatch, .noEvent)

/-- INGEST: APPEND's steps; then, where ready, TAKE, VALIDATE and DECODE (44_pipeline.md R180-R183). -/
def execIngest (c : Operand Bytes) (s : State) : Host.Outcome State Fault Refusal :=
  onRequest c (chunkAccepted s) s fun c =>
    let t := accumulate c s
    if t.ready then
      let d := ingestFrame s.variant (readFrame t.buf)
      replyOk (clearCount t) ((accumulateDiag c s).union d.1) (.event d.2)
    else replyOk t (accumulateDiag c s) (.event .noEvent)

end Sys2Proof.Machine
end

