-- ==== Sys2Proof/Machine/Dispatch.lean ====
section
/-! DEFINITION. The meaning of every instruction, one arm per constructor of Instr. -/

namespace Sys2Proof.Machine

def exec (i : Instr) (s : State) : Host.Outcome State Fault Refusal :=
  match i with
  | .append c => Sys2Proof.Machine.execAppend c s
  | .isReady o => Sys2Proof.Machine.execIsReady o s
  | .take o => Sys2Proof.Machine.execTake o s
  | .reset o => Sys2Proof.Machine.execReset o s
  | .checksum a => Sys2Proof.Machine.execChecksum a s
  | .validate f => Sys2Proof.Machine.execValidate f s
  | .decode f => Sys2Proof.Machine.execDecode f s
  | .ingest c => Sys2Proof.Machine.execIngest c s
  | .reservedOp code tail => Sys2Proof.Machine.execReservedOp code tail s
  | .frameCellinfo f => Sys2Proof.Machine.execFrameCellinfo f s
  | .frameDeviceinfo f => Sys2Proof.Machine.execFrameDeviceinfo f s
  | .frameSettings f => Sys2Proof.Machine.execFrameSettings f s
  | .frameUnknown f => Sys2Proof.Machine.execFrameUnknown f s

end Sys2Proof.Machine
end

