-- ==== Sys2Proof/Machine/Step.lean ====
section
/-! DEFINITION. One step of the block: one host request, one atomic operation, one response (00_scope.md R7). -/

namespace Sys2Proof.Machine

/-- The block takes the oldest request and runs it; between requests it holds its state (20_memory.md R49,
60_exceptions.md R216). -/
def step (s : State) : Host.Outcome State Fault Refusal :=
  match fetch s with
  | none => .next (idle s)
  | some (q, t) => exec (decodeRequest q) t

/-- `s` with the request of a table word placed where `step` takes its next request (log 12). -/
def State.withFetchWord (s : State) (nbits w : Nat) : State :=
  match requestOfWord nbits w with
  | none => s
  | some q => placeRequest s q

end Sys2Proof.Machine
end

