-- ==== Sys2Proof/Machine/Instances.lean ====
section
/-! DEFINITION. Several block instances, one per connected device, which share no state (60_exceptions.md R214, log 18). -/

namespace Sys2Proof.Machine

/-- One step of instance `k` of a row of blocks; the others are not touched (60_exceptions.md R214). A number that
names no instance changes nothing. -/
def stepInstance (k : Nat) (blocks : List State) : Host.Outcome (List State) Fault Refusal :=
  match blocks[k]? with
  | none => .next blocks
  | some s =>
    match step s with
    | .next t => .next (blocks.set k t)
    | .fault r => .fault r
    | .refused r => .refused r

end Sys2Proof.Machine
end

