-- ==== Sys2Proof/Machine/Readings.lean ====
section
/-! DEFINITION. What the raw fields of a record mean: signed readings, scaled quantities, active faults (00_scope.md R15,
43_bitfield_extractor.md R142-R167). No operation computes any of these; they are functions of a record the block
outputs. Scaled values are exact rationals, as R15 says. -/

namespace Sys2Proof.Machine

/-- The scale 0.001 (43_bitfield_extractor.md R142 and others). -/
def milli : Rat := 1 / 1000

/-- The scale 0.1 (43_bitfield_extractor.md R154-R156). -/
def deci : Rat := 1 / 10

/-- A signed 2-byte field (00_scope.md R12). -/
def signed16 (h : Half) : Int := sext 16 h.toNat

/-- A signed 4-byte field (00_scope.md R12). -/
def signed32 (w : Word) : Int := sext 32 w.toNat

/-- `raw x scale`, exactly (00_scope.md R15). -/
def scaled (scale : Rat) (raw : Int) : Rat := (raw : Rat) * scale

/-- Cell voltages, unsigned, scale 0.001 (43_bitfield_extractor.md R142). -/
def CellInfo.cellVolts (r : CellInfo) : List Rat := r.cellMv.map fun h => scaled milli h.toNat

/-- Average cell voltage, unsigned, scale 0.001 (43_bitfield_extractor.md R143). -/
def CellInfo.avgVolts (r : CellInfo) : Rat := scaled milli r.avgMv.toNat

/-- Delta cell voltage, unsigned, scale 0.001 (43_bitfield_extractor.md R144). -/
def CellInfo.deltaVolts (r : CellInfo) : Rat := scaled milli r.deltaMv.toNat

/-- The decoded balancing state (43_bitfield_extractor.md R147). -/
def CellInfo.balance (r : CellInfo) : BalState := balState r.balStateRaw

/-- Balancing current, signed, scale 0.001 (43_bitfield_extractor.md R151). -/
def CellInfo.balCurrent (r : CellInfo) : Rat := scaled milli (signed16 r.balCurRaw)

/-- Pack voltage, signed, scale 0.001 (43_bitfield_extractor.md R152). -/
def CellInfo.packVoltage (r : CellInfo) : Rat := scaled milli (signed32 r.packMvRaw)

/-- Pack current, signed, scale 0.001; the source does not say which sign means charging (43_bitfield_extractor.md
R153). -/
def CellInfo.packCurrent (r : CellInfo) : Rat := scaled milli (signed32 r.curMaRaw)

/-- Temperature probe 1, signed, scale 0.1 (43_bitfield_extractor.md R154). -/
def CellInfo.temperature1 (r : CellInfo) : Rat := scaled deci (signed16 r.t1Raw)

/-- Temperature probe 2, signed, scale 0.1 (43_bitfield_extractor.md R155). -/
def CellInfo.temperature2 (r : CellInfo) : Rat := scaled deci (signed16 r.t2Raw)

/-- MOS temperature, signed, scale 0.1 (43_bitfield_extractor.md R156). -/
def CellInfo.mosTemperature (r : CellInfo) : Rat := scaled deci (signed16 r.tmosRaw)

/-- `active_faults(mask)`: the set bit positions, ascending (43_bitfield_extractor.md R157). -/
def activeFaults (mask : Half) : List (Fin Config.faultBits) :=
  (List.finRange Config.faultBits).filter fun i => mask.getLsbD i.val

/-- The names of the active faults, through the parameter `FAULT_NAME` (43_bitfield_extractor.md R157, log 14). -/
def CellInfo.faultNames (r : CellInfo) : List String := (activeFaults r.faultMask).map Config.faultName

/-- State of charge in percent, unscaled (43_bitfield_extractor.md R158). -/
def CellInfo.socPercent (r : CellInfo) : Nat := r.soc.toNat

/-- Remaining capacity, unsigned, scale 0.001 (43_bitfield_extractor.md R159). -/
def CellInfo.remainingCapacity (r : CellInfo) : Rat := scaled milli r.remcapRaw.toNat

/-- Total capacity, unsigned, scale 0.001 (43_bitfield_extractor.md R160). -/
def CellInfo.totalCapacity (r : CellInfo) : Rat := scaled milli r.totcapRaw.toNat

/-- Cycle count, unsigned, unscaled (43_bitfield_extractor.md R161). -/
def CellInfo.cycles (r : CellInfo) : Nat := r.cyccnt.toNat

/-- Cycle capacity, unsigned, scale 0.001 (43_bitfield_extractor.md R162). -/
def CellInfo.cycleCapacity (r : CellInfo) : Rat := scaled milli r.cyccapRaw.toNat

/-- Total runtime in seconds, unsigned (43_bitfield_extractor.md R163). -/
def CellInfo.runtimeSeconds (r : CellInfo) : Nat := r.runtimeS.toNat

/-- Heating current, signed, scale `HEAT_CUR_SCALE`, a parameter (43_bitfield_extractor.md R167, log 14). -/
def CellInfo.heatCurrent (r : CellInfo) : Rat := scaled Config.heatCurScale (signed16 r.heatCurRaw)

end Sys2Proof.Machine
end

