-- ==== Sys2Proof/Machine/Serialise.lean ====
section
/-! DEFINITION. The byte form of a response (30_encoding.md R75-R79). -/

namespace Sys2Proof.Machine

/-- A 2-byte value, low byte first. -/
def bytes16le (h : Half) : Bytes := [h.extractLsb' 0 8, h.extractLsb' 8 8]

/-- A 4-byte value, low byte first. -/
def bytes32le (w : Word) : Bytes := [w.extractLsb' 0 8, w.extractLsb' 8 8, w.extractLsb' 16 8, w.extractLsb' 24 8]

/-- One byte, 0 or 1. -/
def byteOfBool (b : Bool) : Byte := if b then 1#8 else 0#8

/-- The `bal_active` bitmap: bit `i` is `bal_active[i]`, bits `N`..31 are 0 (30_encoding.md R76). -/
def balBitmap (a : List Bool) : Word := (BitVec.ofBoolListLE a).setWidth 32

/-- The `en_flags` byte: bit 0 `chg_en`, bit 1 `dis_en`, bit 2 `heat_en`, bits 7..3 are 0 (30_encoding.md R76). -/
def enFlags (r : CellInfo) : Byte := (BitVec.ofBoolListLE [r.chgEn, r.disEn, r.heatEn]).setWidth 8

/-- The fields of a CellInfo record after `cell_mv`, in the order of 30_encoding.md R76. -/
def cellInfoTail (r : CellInfo) : Bytes :=
  bytes16le r.avgMv ++ bytes16le r.deltaMv ++ [r.maxIdx, r.minIdx, r.balStateRaw, r.balDisIdx, r.balChgIdx] ++
  bytes32le (balBitmap r.balActive) ++ bytes16le r.balCurRaw ++ bytes32le r.packMvRaw ++ bytes32le r.curMaRaw ++
  bytes16le r.t1Raw ++ bytes16le r.t2Raw ++ bytes16le r.tmosRaw ++ bytes16le r.faultMask ++ [r.soc] ++
  bytes32le r.remcapRaw ++ bytes32le r.totcapRaw ++ bytes32le r.cyccnt ++ bytes32le r.cyccapRaw ++
  bytes32le r.runtimeS ++ [enFlags r] ++ bytes16le r.heatCurRaw

/-- A CellInfo record (30_encoding.md R76). -/
def CellInfo.toBytes (r : CellInfo) : Bytes :=
  BitVec.ofNat 8 r.cellCount :: (r.cellMv.flatMap bytes16le ++ cellInfoTail r)

/-- A DeviceInfo record: `vendor_len` in u16le, then the bytes (30_encoding.md R79). -/
def DeviceInfo.toBytes (d : DeviceInfo) : Bytes := bytes16le (BitVec.ofNat 16 d.vendorLen) ++ d.vendor

/-- An event: its tag byte and its body (30_encoding.md R75). -/
def Event.toBytes : Event → Bytes
  | .noEvent => [0x00#8]
  | .cellInfo r => 0x01#8 :: r.toBytes
  | .deviceInfo d => 0x02#8 :: d.toBytes
  | .unhandled t => [0x03#8, t]

/-- The result part of a response (30_encoding.md R77). -/
def Result.toBytes : Result → Bytes
  | .empty => []
  | .ready b => [byteOfBool b]
  | .taken none => [0x00#8]
  | .taken (some f) => 0x01#8 :: f
  | .sum b => [b]
  | .verdict b => [byteOfBool b]
  | .event e => e.toBytes

/-- `r[0]` (30_encoding.md R77). -/
def Status.toByte : Status → Byte
  | .ok => 0x00#8
  | .badOp => 0x01#8
  | .errOperand => 0x02#8

/-- A response as the host receives it: status, diag, result (30_encoding.md R77). -/
def Response.toBytes (r : Response) : Bytes := r.status.toByte :: r.diag.toByte :: r.result.toBytes

end Sys2Proof.Machine
end

