-- ==== Sys2Proof/Safety.lean ====
section
/-! DEFINITION. The terms the statements use: the invariant of a block, when two blocks cannot be told apart, and the
document's growing buffer, which the block's 300 bytes and count stand for. -/

namespace Sys2Proof.Machine

/-! ## The invariant -/

/-- What holds of a block between operations: it was built with a well-formed descriptor (10_state.md R25), its storage
is in canonical form inside positions 0..299 (20_memory.md R44), and its count is bounded (40_frame_parser.md R104). -/
structure State.Inv (s : State) : Prop where
  variant_wf : descriptorWf s.variant = true
  buf_wf : s.buf.wf
  count_le : s.count ≤ Config.bufMax + s.maxChunk.val

/-! ## What no operation can see -/

/-- Two states that agree on everything but the buffer positions at or beyond `min(count, FRAME_LEN)`, which hold no
defined value (10_state.md R20). -/
structure State.Alike (s t : State) : Prop where
  count_eq : t.count = s.count
  variant_eq : t.variant = s.variant
  maxChunk_eq : t.maxChunk = s.maxChunk
  requests_eq : t.requests = s.requests
  responses_eq : t.responses = s.responses
  bytes_eq : ∀ p, p < min s.count Config.frameLen → t.buf.read p = s.buf.read p

/-! ## The document's growing buffer -/

/-- The document's `append(chunk)` on a buffer that keeps every byte: reset beyond the bound, reset on a chunk that
begins with the preamble, concatenate (40_frame_parser.md R100-R103 quote it; 92_eei_decisions.md D8). -/
def growAppend (acc c : Bytes) : Bytes :=
  if beginsWithPreamble c then c else if Config.bufMax < acc.length then c else acc ++ c

/-- The growing buffer after an instruction of a block with the given `MAX_CHUNK`. -/
def growAfter (maxChunk : Nat) (i : Instr) (acc : Bytes) : Bytes :=
  match i with
  | .append (.assembled c) => if c.length ≤ maxChunk then growAppend acc c else acc
  | .ingest (.assembled c) =>
    if c.length ≤ maxChunk then
      if Config.frameLen ≤ (growAppend acc c).length then [] else growAppend acc c
    else acc
  | .take (.assembled _) => if Config.frameLen ≤ acc.length then [] else acc
  | .reset (.assembled _) => []
  | _ => acc

/-- The result the growing buffer gives an instruction that looks at it; `none` for one that does not, or that is not
accepted. -/
def growResult (V : VariantDescriptor) (maxChunk : Nat) (i : Instr) (acc : Bytes) : Option Result :=
  match i with
  | .append (.assembled c) =>
    if c.length ≤ maxChunk then some (.ready (decide (Config.frameLen ≤ (growAppend acc c).length))) else none
  | .ingest (.assembled c) =>
    if c.length ≤ maxChunk then
      if Config.frameLen ≤ (growAppend acc c).length then
        if validFrame ((growAppend acc c).take Config.frameLen) then
          some (.event (decodeEvent V ((growAppend acc c).take Config.frameLen)).2)
        else some (.event .noEvent)
      else some (.event .noEvent)
    else none
  | .isReady (.assembled _) => some (.ready (decide (Config.frameLen ≤ acc.length)))
  | .take (.assembled _) =>
    if Config.frameLen ≤ acc.length then some (.taken (some (acc.take Config.frameLen))) else some (.taken none)
  | _ => none

/-- The block holds the growing buffer `acc`: the count is its length, and its first 300 bytes are the stored ones
(10_state.md R20, R21). -/
structure State.Holds (s : State) (acc : Bytes) : Prop where
  count_eq : s.count = acc.length
  bytes_eq : ∀ p, p < min acc.length Config.frameLen → s.buf.read p = acc.getD p 0#8

/-! ## Requests and cuts of a frame -/

/-- The preamble at a chunk's first four bytes (30_encoding.md R61). -/
abbrev StartsWithPreamble (c : Bytes) : Prop := c.take 4 = [0x55#8, 0xAA#8, 0xEB#8, 0x90#8]

/-- The request of an operation with one sequence operand: code, `len` low byte first, data (30_encoding.md R81). -/
def seqRequest (op : Byte) (c : Bytes) : Request :=
  ⟨op, BitVec.ofNat 8 c.length :: BitVec.ofNat 8 (c.length / 256) :: c⟩

/-- `APPEND c` (30_encoding.md R81). -/
def appendRequest (c : Bytes) : Request := seqRequest 0x01#8 c

/-- `INGEST c` (30_encoding.md R81). -/
def ingestRequest (c : Bytes) : Request := seqRequest 0x08#8 c

/-- `CHECKSUM n, s`: code, `len` and `n` low byte first, data (30_encoding.md R73). -/
def checksumRequest (a : ChecksumArgs) : Request :=
  ⟨0x05#8, BitVec.ofNat 8 a.s.length :: BitVec.ofNat 8 (a.s.length / 256) :: BitVec.ofNat 8 a.n.toNat ::
    BitVec.ofNat 8 (a.n.toNat / 256) :: a.s⟩

/-- `cs` is a cut of the bytes `f` into chunks no longer than `MAX_CHUNK`, none of which but the first begins with the
preamble; a chunk may be empty (40_frame_parser.md R111, 44_pipeline.md R184). -/
structure IsCut (maxChunk : Nat) (f : Bytes) (cs : List Bytes) : Prop where
  joined : cs.flatten = f
  fits : ∀ c ∈ cs, c.length ≤ maxChunk
  later : ∀ c ∈ cs.tail, ¬ StartsWithPreamble c

/-- The field `len` = `q[1..2]` as a number (30_encoding.md R70). -/
def requestLen (q : Request) : Nat := (q.tail.getD 0 0#8).toNat + 256 * (q.tail.getD 1 0#8).toNat

/-- The field `n` = `q[3..4]` as a number (30_encoding.md R70). -/
def requestN (q : Request) : Nat := (q.tail.getD 2 0#8).toNat + 256 * (q.tail.getD 3 0#8).toNat

/-- The column "well-formed when" of 30_encoding.md R73, on the request's bytes: `|q|` is one more than the tail's
length. A request with a reserved code is never well formed. -/
def WellFormedRequest (maxChunk : Nat) (q : Request) : Prop :=
  match q.op.toNat with
  | 0x01 | 0x08 => 2 ≤ q.tail.length ∧ q.tail.length = 2 + requestLen q ∧ requestLen q ≤ maxChunk
  | 0x02 | 0x03 | 0x04 => q.tail = []
  | 0x05 => 4 ≤ q.tail.length ∧ q.tail.length = 4 + requestLen q ∧ requestN q ≤ requestLen q
  | 0x06 => 2 ≤ q.tail.length ∧ q.tail.length = 2 + requestLen q
  | 0x07 => 2 ≤ q.tail.length ∧ q.tail.length = 2 + requestLen q ∧ requestLen q = 300
  | _ => False

/-- The reserved codes (30_encoding.md R72). -/
abbrev ReservedRequest (q : Request) : Prop := q.op.toNat = 0 ∨ 9 ≤ q.op.toNat

/-- An offset that the descriptor covers when the cell count is `n`: a byte of a field other than the voltage table, or
of one of the table's first `n` entries (30_encoding.md R68). -/
def Covered (V : VariantDescriptor) (n o : Nat) : Prop :=
  (∃ ow ∈ fixedFields V, ow.1 ≤ o ∧ o < ow.1 + ow.2) ∨ (V.vtabOff ≤ o ∧ o < V.vtabOff + 2 * n)

/-- The number at two bytes, low byte first (00_scope.md R12). -/
def num16 (f : Bytes) (o : Nat) : Nat := (f.getD o 0#8).toNat + 256 * (f.getD (o + 1) 0#8).toNat

/-- The number at four bytes, low byte first (00_scope.md R12). -/
def num32 (f : Bytes) (o : Nat) : Nat :=
  (f.getD o 0#8).toNat + 2 ^ 8 * (f.getD (o + 1) 0#8).toNat + 2 ^ 16 * (f.getD (o + 2) 0#8).toNat
    + 2 ^ 24 * (f.getD (o + 3) 0#8).toNat

end Sys2Proof.Machine
end

