-- ==== Sys2Proof/Certificates/Slice0/Obligations.lean ====
section
/-! DEFINITION. The statements for the provers, after the spec's numbered rules. Where a docstring says "the spec's own
decision" or "the spec's own inference", the rule carries that mark ([decision: ...] or [derived: ...]) and the statement
is no plain sentence of the document. Where it names a log, the point is the model's choice or inference, and the row is
notes/assumptions/<n>.md. The fields `requests` and `responses` are the model's own in every statement (logs 1, 2). -/

open Sys2Proof Sys2Proof.Machine

/-! ## The port and the step -/

/-- A step runs the oldest request the host has issued, decoded, on the state without it; with no request waiting the
block holds its state. The queue is the model's own field (log 1); the order is 20_memory.md R49's, and the hold is
60_exceptions.md R216's (log 9), both the spec's own. -/
def Obligations.StepRunsOldestRequest : Prop :=
  (∀ (s : State) (q : Request) (qs : List Request), s.requests = q :: qs →
    step s = exec (decodeRequest q) { s with requests := qs }) ∧
  (∀ s : State, s.requests = [] → step s = .next s)

/-- On a built block every request, whatever its bytes, is completed: one response, no fault, no refusal, the descriptor
and the parameter untouched; a response that is not OK carries no flag and no result, and the operation then changed
nothing (60_exceptions.md R200, R206; 30_encoding.md R77; 00_scope.md R14). -/
def Obligations.EveryRequestIsAnsweredOnce : Prop :=
  ∀ (s : State) (q : Request) (qs : List Request), descriptorWf s.variant = true → s.requests = q :: qs →
    ∃ (t : State) (r : Response), step s = .next t ∧ t.responses = s.responses ++ [r] ∧ t.requests = qs ∧
      t.variant = s.variant ∧ t.maxChunk = s.maxChunk ∧
      (r.status ≠ .ok → r.diag = {} ∧ r.result = .empty ∧ t.buf = s.buf ∧ t.count = s.count)

/-- Along any run the descriptor and `MAX_CHUNK` stay as built (10_state.md R26) and every response already given stays
as it was, a taken frame among them (20_memory.md R54). -/
def Obligations.ConstructionAndAnswersKeptAlongRuns : Prop :=
  ∀ (n : Nat) (s t : State), Host.Core.run Sys2Proof.core n s = .next t →
    t.variant = s.variant ∧ t.maxChunk = s.maxChunk ∧ s.responses <+: t.responses

/-- A block with a descriptor that fails a check is not built, and no instruction of it has a meaning (10_state.md R25,
the spec's own decision; log 7). -/
def Obligations.IllFormedDescriptorIsRefused : Prop :=
  (∀ (V : VariantDescriptor) (m : Fin Config.lenBound) (b : Memory), descriptorWf V = false →
    build V m b = .refused .illFormedDescriptor) ∧
  (∀ (i : Instr) (s : State), descriptorWf s.variant = false → exec i s = .refused .illFormedDescriptor)

/-- The descriptor's checks, field by field with each field's width, are WF_PAYLOAD, WF_VTAB, WF_MASK, WF_DOWNSTREAM and
WF_VEND (10_state.md R25, the spec's own decision; the voltage table's width in WF_PAYLOAD is log 13's). -/
def Obligations.DescriptorChecksAreTheNamedOnes : Prop :=
  ∀ V : VariantDescriptor, descriptorWf V = true ↔
    (let inside := fun o w : Nat => 6 ≤ o ∧ o + w ≤ 299
     (inside V.maskOff[0] 1 ∧ inside V.maskOff[1] 1 ∧ inside V.maskOff[2] 1 ∧ inside V.vtabOff 2 ∧
      inside V.avgOff 2 ∧ inside V.deltaOff 2 ∧ inside V.maxidxOff 1 ∧ inside V.minidxOff 1 ∧
      inside V.balstateOff 1 ∧ inside V.baldisOff 1 ∧ inside V.balchgOff 1 ∧ inside V.balcurOff 2 ∧
      inside V.packvOff 4 ∧ inside V.curOff 4 ∧ inside V.t1Off 2 ∧ inside V.t2Off 2 ∧ inside V.tmosOff 2 ∧
      inside V.faultOff 2 ∧ inside V.socOff 1 ∧ inside V.remcapOff 4 ∧ inside V.totcapOff 4 ∧
      inside V.cyccntOff 4 ∧ inside V.cyccapOff 4 ∧ inside V.runtimeOff 4 ∧ inside V.chgenOff 1 ∧
      inside V.disenOff 1 ∧ inside V.heatenOff 1 ∧ inside V.heatcurOff 2 ∧ inside V.vendOff V.vendLen) ∧
     (24 ≤ V.vtEntries ∧ V.vtabOff + 2 * V.vtEntries ≤ 299) ∧
     (V.maskOff[0] ≠ V.maskOff[1] ∧ V.maskOff[0] ≠ V.maskOff[2] ∧ V.maskOff[1] ≠ V.maskOff[2]) ∧
     (V.vtabOff + 2 * V.vtEntries ≤ V.avgOff ∧ V.vtabOff + 2 * V.vtEntries ≤ V.deltaOff ∧
      V.vtabOff + 2 * V.vtEntries ≤ V.maxidxOff ∧ V.vtabOff + 2 * V.vtEntries ≤ V.minidxOff) ∧
     1 ≤ V.vendLen)

/-- Construction with a well-formed descriptor gives an Idle block with that descriptor and no byte counted, whatever the
buffer's storage holds (10_state.md R30, 70_reset_and_hazards.md R220, R221). That no request waits and no response has
been given is the model's choice (logs 1, 2). -/
def Obligations.ConstructionGivesAnIdleBlock : Prop :=
  ∀ (V : VariantDescriptor) (m : Fin Config.lenBound) (b : Memory), descriptorWf V = true →
    ∃ s : State, build V m b = .next s ∧ s.count = 0 ∧ s.ready = false ∧ s.fbState = .idle ∧ s.variant = V ∧
      s.maxChunk = m ∧ s.buf = b ∧ s.requests = [] ∧ s.responses = []

/-! ## The invariant -/

/-- The invariant holds of every constructed block, and of State.reset, whose descriptor and parameter are the model's
choice (logs 3, 4, 5). -/
def Obligations.InvariantHoldsWhenBuilt : Prop :=
  (∀ (V : VariantDescriptor) (m : Fin Config.lenBound) (b : Memory), descriptorWf V = true → b.wf →
    (State.construct V m b).Inv) ∧ State.reset.Inv

/-- Every step keeps the invariant: a well-formed descriptor, storage inside positions 0..299 (20_memory.md R44) and in
canonical form (the model's choice, log 5), and `count <= BUF_MAX + MAX_CHUNK` (40_frame_parser.md R104, the spec's own
inference). -/
def Obligations.InvariantKeptByEveryStep : Prop :=
  ∀ s t : State, s.Inv → step s = .next t → t.Inv

/-! ## The frame parser -/

/-- APPEND completes and does steps S1, S2, S3: where its bytes land, what it counts, what it flags and what it leaves
(40_frame_parser.md R100-R103, R110; the place of S1 and the RESYNC flag are the spec's own decisions D7, D42). The
memory form is a premise: 0 <= position < 300, canonical (log 5). -/
def Obligations.AppendAccumulatesAChunk : Prop :=
  ∀ (s : State) (c : Bytes), descriptorWf s.variant = true → s.buf.wf → c.length ≤ s.maxChunk.val →
    let base := if StartsWithPreamble c ∨ 320 < s.count then 0 else s.count
    ∃ t : State, exec (.append (.assembled c)) s = .next t ∧
      t.count = base + c.length ∧
      (∀ p, t.buf.read p =
        if base ≤ p ∧ p < base + c.length ∧ p < 300 then c.getD (p - base) 0#8 else s.buf.read p) ∧
      t.responses = s.responses ++ [⟨.ok,
        { overflow := decide (320 < s.count),
          resync := decide (StartsWithPreamble c ∧ 0 < s.count ∧ s.count ≤ 320) },
        .ready (decide (300 ≤ base + c.length))⟩] ∧
      t.variant = s.variant ∧ t.maxChunk = s.maxChunk ∧ t.requests = s.requests

/-- IS_READY completes with `count >= 300` and changes nothing; with bytes after the code it answers ERR_OPERAND
(40_frame_parser.md R105). -/
def Obligations.IsReadyReportsTheCount : Prop :=
  ∀ s : State, descriptorWf s.variant = true →
    exec (.isReady (.assembled ())) s =
      .next { s with responses := s.responses ++ [⟨.ok, {}, .ready (decide (300 ≤ s.count))⟩] } ∧
    decodeRequest ⟨0x02#8, []⟩ = .isReady (.assembled ()) ∧
    ∀ (b : Byte) (tail : Bytes), exec (decodeRequest ⟨0x02#8, b :: tail⟩) s =
      .next { s with responses := s.responses ++ [⟨.errOperand, {}, .empty⟩] }

/-- TAKE when ready completes with the first 300 bytes of the buffer, clears the count and leaves the rest; with bytes
after the code it answers ERR_OPERAND (40_frame_parser.md R106). -/
def Obligations.TakeReturnsTheFirst300Bytes : Prop :=
  ∀ s : State, descriptorWf s.variant = true →
    (300 ≤ s.count → ∃ f : Bytes, f.length = 300 ∧ (∀ p, p < 300 → f.getD p 0#8 = s.buf.read p) ∧
      exec (.take (.assembled ())) s =
        .next { s with count := 0, responses := s.responses ++ [⟨.ok, {}, .taken (some f)⟩] }) ∧
    decodeRequest ⟨0x03#8, []⟩ = .take (.assembled ()) ∧
    ∀ (b : Byte) (tail : Bytes), exec (decodeRequest ⟨0x03#8, b :: tail⟩) s =
      .next { s with responses := s.responses ++ [⟨.errOperand, {}, .empty⟩] }

/-- TAKE before readiness completes with `present = 0` and changes nothing (40_frame_parser.md R107, the spec's own
decision D10). -/
def Obligations.TakeBeforeReadinessKeepsThePartialFrame : Prop :=
  ∀ s : State, descriptorWf s.variant = true → s.count < 300 →
    exec (.take (.assembled ())) s = .next { s with responses := s.responses ++ [⟨.ok, {}, .taken none⟩] }

/-- RESET completes with an empty result, clears the count and writes nothing else, the storage and the descriptor
included; with bytes after the code it answers ERR_OPERAND (40_frame_parser.md R108). -/
def Obligations.ResetClearsOnlyTheCount : Prop :=
  ∀ s : State, descriptorWf s.variant = true →
    exec (.reset (.assembled ())) s =
      .next { s with count := 0, responses := s.responses ++ [⟨.ok, {}, .empty⟩] } ∧
    decodeRequest ⟨0x04#8, []⟩ = .reset (.assembled ()) ∧
    ∀ (b : Byte) (tail : Bytes), exec (decodeRequest ⟨0x04#8, b :: tail⟩) s =
      .next { s with responses := s.responses ++ [⟨.errOperand, {}, .empty⟩] }

/-- The table of `fb_state` (40_frame_parser.md R109, the spec's own inference), row by row. -/
def Obligations.FbStateFollowsTheTransitionTable : Prop :=
  (∀ (s t : State) (c : Bytes), c.length ≤ s.maxChunk.val → exec (.append (.assembled c)) s = .next t →
    (s.fbState = .idle → c.length = 0 → t.fbState = .idle) ∧
    (s.fbState = .idle → 0 < c.length → c.length < 300 → t.fbState = .accumulating) ∧
    (s.fbState = .idle → 300 ≤ c.length → t.fbState = .ready) ∧
    (s.fbState = .accumulating → ¬ StartsWithPreamble c → s.count + c.length < 300 → t.fbState = .accumulating) ∧
    (s.fbState = .accumulating → ¬ StartsWithPreamble c → 300 ≤ s.count + c.length → t.fbState = .ready) ∧
    (StartsWithPreamble c → t.fbState = if c.length < 300 then .accumulating else .ready) ∧
    (s.fbState = .ready → ¬ StartsWithPreamble c → s.count ≤ 320 →
      t.fbState = .ready ∧ t.count = s.count + c.length) ∧
    (320 < s.count → ¬ StartsWithPreamble c →
      t.fbState = if c.length = 0 then .idle else if c.length < 300 then .accumulating else .ready)) ∧
  (∀ s t : State, exec (.take (.assembled ())) s = .next t →
    t.fbState = if s.fbState = .ready then .idle else s.fbState) ∧
  (∀ s t : State, exec (.reset (.assembled ())) s = .next t → t.fbState = .idle) ∧
  (∀ s t : State, exec (.isReady (.assembled ())) s = .next t → t.fbState = s.fbState)

/-- The count after an accepted APPEND is at most `BUF_MAX + |c|` (40_frame_parser.md R104), and after an accepted INGEST
below 300 (44_pipeline.md R182), in every state; both are the spec's own inferences. -/
def Obligations.CountAfterAChunkIsBounded : Prop :=
  ∀ (s t : State) (c : Bytes), c.length ≤ s.maxChunk.val →
    (exec (.append (.assembled c)) s = .next t → t.count ≤ 320 + c.length) ∧
    (exec (.ingest (.assembled c)) s = .next t → t.count < 300)

/-- The count falls only where the spec says the buffer is cleared: TAKE when ready, RESET, an APPEND or INGEST that
overflows or begins with the preamble, an INGEST that completes a frame (70_reset_and_hazards.md R222, R220). -/
def Obligations.CountFallsOnlyAtTheListedClears : Prop :=
  ∀ (i : Instr) (s t : State), exec i s = .next t → t.count < s.count →
    (i = .take (.assembled ()) ∧ 300 ≤ s.count ∧ t.count = 0) ∨ (i = .reset (.assembled ()) ∧ t.count = 0) ∨
    (∃ c : Bytes, i = .append (.assembled c) ∧ (320 < s.count ∨ StartsWithPreamble c) ∧ t.count = c.length) ∨
    (∃ c : Bytes, i = .ingest (.assembled c) ∧
      (320 < s.count ∨ StartsWithPreamble c ∨ 300 ≤ s.count + c.length) ∧ (t.count = c.length ∨ t.count = 0))

/-- Split delivery: from an empty buffer the APPENDs of any cut of a 300-byte sequence, empty chunks among them, leave
exactly that sequence in the buffer, ready (40_frame_parser.md R111, the spec's own inference). As in R111, no chunk but
the first begins with the preamble. The storage's canonical form is a premise (log 5). -/
def Obligations.SplitAppendsFillTheBuffer : Prop :=
  ∀ (s : State) (f : Bytes) (cs : List Bytes), descriptorWf s.variant = true → s.buf.wf → s.count = 0 →
    f.length = 300 → IsCut s.maxChunk.val f cs → s.requests = cs.map appendRequest →
    ∃ t : State, Host.Core.run Sys2Proof.core cs.length s = .next t ∧ t.count = 300 ∧ t.ready = true ∧
      ∀ p, p < 300 → t.buf.read p = f.getD p 0#8

/-! ## INGEST -/

/-- INGEST completes: with fewer than 300 bytes it returns no event and keeps them; otherwise it takes the frame, clears
the count, and returns the decode if the sum of bytes 0..298 is byte 299, else no event and CSUM_MISMATCH
(44_pipeline.md R180-R183). Rests on the spec's own decision D7 for the place of step S1. -/
def Obligations.IngestTakesValidatesAndDecodes : Prop :=
  ∀ (s : State) (c : Bytes), descriptorWf s.variant = true → s.buf.wf → c.length ≤ s.maxChunk.val →
    let base := if StartsWithPreamble c ∨ 320 < s.count then 0 else s.count
    let overflowed := decide (320 < s.count)
    let sync := decide (StartsWithPreamble c ∧ 0 < s.count ∧ s.count ≤ 320)
    ∃ (t : State) (d : Diag) (e : Event), exec (.ingest (.assembled c)) s = .next t ∧
      t.responses = s.responses ++ [⟨.ok, d, .event e⟩] ∧
      d.overflow = overflowed ∧ d.resync = sync ∧
      t.variant = s.variant ∧ t.maxChunk = s.maxChunk ∧ t.requests = s.requests ∧
      (∀ p, t.buf.read p =
        if base ≤ p ∧ p < base + c.length ∧ p < 300 then c.getD (p - base) 0#8 else s.buf.read p) ∧
      (base + c.length < 300 →
        t.count = base + c.length ∧ e = .noEvent ∧ d.csumMismatch = false ∧ d.unknownType = false) ∧
      (300 ≤ base + c.length → t.count = 0 ∧
        ∃ f : Bytes, f.length = 300 ∧ (∀ p, p < 300 → f.getD p 0#8 = t.buf.read p) ∧
          if (((f.take 299).map BitVec.toNat).sum % 256 = (f.getD 299 0#8).toNat) then
            d.csumMismatch = false ∧ d.unknownType = (decodeEvent s.variant f).1.unknownType ∧
              e = (decodeEvent s.variant f).2
          else d.csumMismatch = true ∧ d.unknownType = false ∧ e = .noEvent)

/-- INGEST is APPEND, then where ready TAKE, VALIDATE of the taken frame and, where valid, DECODE of it: the same state,
and the flags and the event of those operations in its one response (44_pipeline.md R180, R187). -/
def Obligations.IngestIsThePrimitivePath : Prop :=
  ∀ (s : State) (c : Bytes), descriptorWf s.variant = true → c.length ≤ s.maxChunk.val →
    ∃ (t1 : State) (d : Diag) (b : Bool), exec (.append (.assembled c)) s = .next t1 ∧
      t1.responses = s.responses ++ [⟨.ok, d, .ready b⟩] ∧
      (b = false → exec (.ingest (.assembled c)) s =
        .next { t1 with responses := s.responses ++ [⟨.ok, d, .event .noEvent⟩] }) ∧
      (b = true → ∃ (t2 t3 : State) (f : Bytes) (v : Bool),
        exec (.take (.assembled ())) t1 = .next t2 ∧
        t2.responses = t1.responses ++ [⟨.ok, {}, .taken (some f)⟩] ∧
        exec (.validate (.assembled f)) t2 = .next t3 ∧
        t3.responses = t2.responses ++ [⟨.ok, {}, .verdict v⟩] ∧
        (v = false → exec (.ingest (.assembled c)) s =
          .next { t2 with responses := s.responses ++ [⟨.ok, { d with csumMismatch := true }, .event .noEvent⟩] }) ∧
        (v = true → ∃ (t4 : State) (d' : Diag) (e : Event), exec (.decode (.assembled f)) t3 = .next t4 ∧
          t4.responses = t3.responses ++ [⟨.ok, d', .event e⟩] ∧
          exec (.ingest (.assembled c)) s =
            .next { t2 with responses :=
              s.responses ++ [⟨.ok, { d with unknownType := d'.unknownType }, .event e⟩] }))

/-- Split-delivery equivalence: from Idle the INGESTs of a cut of a valid frame return no event and no flag, but for the one
that brings the frame's last byte, which returns the frame's decode; the block ends Idle (44_pipeline.md R184, the spec's
own inference). The cut is any of R184's, written as `cs`, whose last chunk is not empty, and `k` empty chunks after it.
That with `k > 0` the completing INGEST is not the `m`-th, and the `k` after it return no event, is the model's reading,
from R180 (log 21). The storage's canonical form is a premise (log 5). -/
def Obligations.SplitIngestsDecodeTheFrameOnce : Prop :=
  ∀ (s : State) (f : Bytes) (cs : List Bytes) (k : Nat), descriptorWf s.variant = true → s.buf.wf → s.count = 0 →
    f.length = 300 → validFrame f = true → IsCut s.maxChunk.val f cs → cs.getLast? ≠ some [] →
    s.requests = (cs ++ List.replicate k []).map ingestRequest →
    ∃ t : State, Host.Core.run Sys2Proof.core (cs.length + k) s = .next t ∧ t.count = 0 ∧
      t.responses = s.responses ++ List.replicate (cs.length - 1) ⟨.ok, {}, .event .noEvent⟩ ++
        [⟨.ok, (decodeEvent s.variant f).1, .event (decodeEvent s.variant f).2⟩] ++
        List.replicate k ⟨.ok, {}, .event .noEvent⟩

/-- Resync: with a partial frame in the buffer, the INGESTs of a valid frame whose first chunk begins with the preamble
discard the partial frame (RESYNC on the first response) and decode only the new one, on the INGEST that brings its last
byte (44_pipeline.md R186, the spec's own inference). The cut is any of R186's, written as `c :: cs`, whose last chunk is
not empty, and `k` empty chunks after it; that those return no event is the model's reading, from R180 (log 21). The
storage's canonical form is a premise (log 5). -/
def Obligations.ResyncDecodesOnlyTheNewFrame : Prop :=
  ∀ (s : State) (f c : Bytes) (cs : List Bytes) (k : Nat), descriptorWf s.variant = true → s.buf.wf →
    0 < s.count → s.count < 300 → f.length = 300 → validFrame f = true → StartsWithPreamble c →
    IsCut s.maxChunk.val f (c :: cs) → cs.getLast? ≠ some [] →
    s.requests = (c :: cs ++ List.replicate k []).map ingestRequest →
    let last := decodeEvent s.variant f
    let quiet : Response := ⟨.ok, {}, .event .noEvent⟩
    ∃ t : State, Host.Core.run Sys2Proof.core (cs.length + 1 + k) s = .next t ∧ t.count = 0 ∧
      (cs = [] → t.responses = s.responses ++ [⟨.ok, { last.1 with resync := true }, .event last.2⟩] ++
        List.replicate k quiet) ∧
      (cs ≠ [] → t.responses = s.responses ++ [⟨.ok, { resync := true }, .event .noEvent⟩] ++
        List.replicate (cs.length - 1) quiet ++ [⟨.ok, last.1, .event last.2⟩] ++ List.replicate k quiet)

/-- Without APPEND the overflow guard is dead: a host that issues none keeps `count < 300` and never sees OVERFLOW
(44_pipeline.md R185, the spec's own inference, said there of a host that uses only INGEST and RESET). -/
def Obligations.NoOverflowWithoutAppend : Prop :=
  ∀ (n : Nat) (s t : State), (∀ q ∈ s.requests, q.op ≠ 0x01#8) → s.count < 300 →
    Host.Core.run Sys2Proof.core n s = .next t →
    t.count < 300 ∧ ∃ rs : List Response, t.responses = s.responses ++ rs ∧ ∀ r ∈ rs, r.diag.overflow = false

/-! ## What the buffer's storage means -/

/-- No operation can tell two blocks apart that differ only in buffer positions at or beyond `min(count, 300)`: they
answer alike and stay alike, whatever those positions hold (10_state.md R20, R28, R30: "no rule reads it"). -/
def Obligations.UndefinedBufferBytesAreNeverSeen : Prop :=
  ∀ s t s' : State, s.buf.wf → t.buf.wf → s.Alike t → step s = .next s' →
    ∃ t' : State, step t = .next t' ∧ s'.Alike t'

/-- The 300 stored bytes and the count stand for the document's growing buffer: every instruction keeps the
correspondence, and its result is the growing buffer's (10_state.md R20, R21; the spec's own decision D8, "exact"). -/
def Obligations.BlockRefinesTheGrowingBuffer : Prop :=
  ∀ (i : Instr) (s t : State) (acc : Bytes), s.buf.wf → s.Holds acc → exec i s = .next t →
    t.Holds (growAfter s.maxChunk.val i acc) ∧
    ∀ x : Result, growResult s.variant s.maxChunk.val i acc = some x →
      ∃ d : Diag, t.responses = s.responses ++ [⟨.ok, d, x⟩]

/-! ## The checksum validator -/

/-- CHECKSUM completes with the value its loop reaches: 0, then each of the first `n` bytes added modulo 256; it changes
nothing else, and `n > |s|` or a malformed request answers ERR_OPERAND; its request is `05 len n s` (41_checksum.md
R120). -/
def Obligations.ChecksumRunsItsLoop : Prop :=
  ∀ (s : State) (a : ChecksumArgs), descriptorWf s.variant = true →
    (a.n.toNat ≤ a.s.length → ∃ acc : Nat → Byte, acc 0 = 0#8 ∧
      (∀ i, i < a.n.toNat → (acc (i + 1)).toNat = ((acc i).toNat + (a.s.getD i 0#8).toNat) % 256) ∧
      exec (.checksum (.assembled a)) s =
        .next { s with responses := s.responses ++ [⟨.ok, {}, .sum (acc a.n.toNat)⟩] }) ∧
    (a.s.length < a.n.toNat → exec (.checksum (.assembled a)) s =
      .next { s with responses := s.responses ++ [⟨.errOperand, {}, .empty⟩] }) ∧
    (∀ tail : Bytes, exec (.checksum (.malformed tail)) s =
      .next { s with responses := s.responses ++ [⟨.errOperand, {}, .empty⟩] }) ∧
    (a.s.length < 65536 → decodeRequest (checksumRequest a) = .checksum (.assembled a))

/-- The value CHECKSUM answers is the integer sum of the first `n` bytes modulo 256, and bytes at `n` or above do not
matter (41_checksum.md R120, R121; the equivalence is the spec's own inference). -/
def Obligations.ChecksumIsTheSumModulo256 : Prop :=
  ∀ (s : State) (a : ChecksumArgs), descriptorWf s.variant = true → a.n.toNat ≤ a.s.length →
    ∃ b : Byte, b.toNat = ((a.s.take a.n.toNat).map BitVec.toNat).sum % 256 ∧
      exec (.checksum (.assembled a)) s = .next { s with responses := s.responses ++ [⟨.ok, {}, .sum b⟩] }

/-- VALIDATE completes for a frame of any length: verdict 0 for the empty frame, otherwise whether the sum of all bytes
but the last, modulo 256, is the last; it changes nothing and raises no flag; a malformed request answers ERR_OPERAND;
its request is `06 len f` (41_checksum.md R122). -/
def Obligations.ValidateComparesTheLastByte : Prop :=
  ∀ s : State, descriptorWf s.variant = true →
    exec (.validate (.assembled [])) s =
      .next { s with responses := s.responses ++ [⟨.ok, {}, .verdict false⟩] } ∧
    (∀ (body : Bytes) (last : Byte), exec (.validate (.assembled (body ++ [last]))) s =
      .next { s with responses := s.responses ++
        [⟨.ok, {}, .verdict (decide ((body.map BitVec.toNat).sum % 256 = last.toNat))⟩] }) ∧
    (∀ tail : Bytes, exec (.validate (.malformed tail)) s =
      .next { s with responses := s.responses ++ [⟨.errOperand, {}, .empty⟩] }) ∧
    (∀ f : Bytes, f.length < 65536 → decodeRequest (seqRequest 0x06#8 f) = .validate (.assembled f))

/-- A change of exactly one byte of a valid frame, the checksum byte included, makes VALIDATE answer 0 (41_checksum.md
R126, the spec's own inference). -/
def Obligations.SingleByteChangeIsDetected : Prop :=
  ∀ (s : State) (f : Bytes) (i : Nat) (b : Byte), descriptorWf s.variant = true → i < f.length → b ≠ f.getD i 0#8 →
    exec (.validate (.assembled f)) s = .next { s with responses := s.responses ++ [⟨.ok, {}, .verdict true⟩] } →
    exec (.validate (.assembled (f.set i b))) s =
      .next { s with responses := s.responses ++ [⟨.ok, {}, .verdict false⟩] }

/-- VALIDATE accepts every outbound command frame of 30_encoding.md R64 with the checksum 41_checksum.md R125 gives, for
every command code, value length and 32-bit value (the spec's own inference). -/
def Obligations.OutboundCommandFrameValidates : Prop :=
  ∀ (s : State) (k l : Byte) (v : Word), descriptorWf s.variant = true →
    let value := [v.extractLsb' 0 8, v.extractLsb' 8 8, v.extractLsb' 16 8, v.extractLsb' 24 8]
    let cs := BitVec.ofNat 8 (0x7A + k.toNat + l.toNat + (value.map BitVec.toNat).sum)
    let f := [0xAA#8, 0x55#8, 0x90#8, 0xEB#8, k, l] ++ value ++ List.replicate 9 0#8 ++ [cs]
    f.length = 20 ∧ exec (.validate (.assembled f)) s =
      .next { s with responses := s.responses ++ [⟨.ok, {}, .verdict true⟩] }

/-- A reordering of the bytes before the checksum byte is not detected (70_reset_and_hazards.md R230, the spec's own
inference). -/
def Obligations.ReorderingIsNotDetected : Prop :=
  ∀ (s : State) (body body' : Bytes) (last : Byte), body.Perm body' →
    exec (.validate (.assembled (body ++ [last]))) s = exec (.validate (.assembled (body' ++ [last]))) s

/-! ## The frame decoder -/

/-- DECODE of a 300-byte frame completes and dispatches on byte 4 alone; it changes nothing else (42_frame_decoder.md
R130-R135, 30_encoding.md R66). That 0x01 raises no flag is the spec's own decision D31. -/
def Obligations.DecodeDispatchesOnTheTypeByte : Prop :=
  ∀ (s : State) (f : Bytes), descriptorWf s.variant = true → f.length = 300 →
    ∃ (d : Diag) (e : Event),
      exec (.decode (.assembled f)) s = .next { s with responses := s.responses ++ [⟨.ok, d, .event e⟩] } ∧
      (d, e) =
        (if f.getD 4 0#8 = 0x02#8 then ({}, .cellInfo (extractCellInfo s.variant f))
         else if f.getD 4 0#8 = 0x03#8 then ({}, .deviceInfo (extractDeviceInfo s.variant f))
         else if f.getD 4 0#8 = 0x01#8 then ({}, .unhandled 0x01#8)
         else ({ unknownType := true }, .unhandled (f.getD 4 0#8)))

/-- DECODE, and the row of the frame's type, complete: a CellInfo frame yields its record, a DeviceInfo frame its record,
a frame of unknown type the raw byte and UNKNOWN_TYPE; nothing else changes (42_frame_decoder.md R132, R133, R135, which
speak of DECODE). That a row executes as an instruction of its own is the model's choice (log 10). -/
def Obligations.FrameTypeRowsYieldTheirEvents : Prop :=
  ∀ (s : State) (f : Bytes), descriptorWf s.variant = true → f.length = 300 →
    let after := fun (d : Diag) (e : Event) => { s with responses := s.responses ++ [⟨.ok, d, .event e⟩] }
    (f.getD 4 0#8 = 0x02#8 →
      exec (.frameCellinfo f) s = .next (after {} (.cellInfo (extractCellInfo s.variant f))) ∧
      exec (.decode (.assembled f)) s = .next (after {} (.cellInfo (extractCellInfo s.variant f)))) ∧
    (f.getD 4 0#8 = 0x03#8 →
      exec (.frameDeviceinfo f) s = .next (after {} (.deviceInfo (extractDeviceInfo s.variant f))) ∧
      exec (.decode (.assembled f)) s = .next (after {} (.deviceInfo (extractDeviceInfo s.variant f)))) ∧
    (f.getD 4 0#8 ≠ 0x01#8 → f.getD 4 0#8 ≠ 0x02#8 → f.getD 4 0#8 ≠ 0x03#8 →
      exec (.frameUnknown f) s = .next (after { unknownType := true } (.unhandled (f.getD 4 0#8))) ∧
      exec (.decode (.assembled f)) s = .next (after { unknownType := true } (.unhandled (f.getD 4 0#8))))

/-- The row FRAME_SETTINGS on a settings frame completes with `Unhandled(0x01)` and no flag, as DECODE does by
42_frame_decoder.md R134 (that it raises no flag is the spec's own decision D31). That the row executes as an instruction
of its own is the model's choice (log 10). -/
def Obligations.SettingsFrameIsUnhandledWithoutAFlag : Prop :=
  ∀ (s : State) (f : Bytes), descriptorWf s.variant = true → f.length = 300 → f.getD 4 0#8 = 0x01#8 →
    exec (.frameSettings f) s =
      .next { s with responses := s.responses ++ [⟨.ok, {}, .event (.unhandled 0x01#8)⟩] }

/-- The row a frame decodes to (30_encoding.md R66) does exactly what DECODE does with that frame; that is the meaning the
model chose for a row as an instruction (log 10). A row applied to a frame it does not match is refused by name, also the
model's choice (log 11). -/
def Obligations.FrameRowsAreTheCasesOfDecode : Prop :=
  (∀ (s : State) (f : Bytes) (i : Instr), decodeFrame f = .ok i → exec i s = exec (.decode (.assembled f)) s) ∧
  (∀ (s : State) (f : Bytes), descriptorWf s.variant = true →
    (¬ (f.length = 300 ∧ f.getD 4 0#8 = 0x02#8) → exec (.frameCellinfo f) s = .refused .notAnInstruction) ∧
    (¬ (f.length = 300 ∧ f.getD 4 0#8 = 0x03#8) → exec (.frameDeviceinfo f) s = .refused .notAnInstruction) ∧
    (¬ (f.length = 300 ∧ f.getD 4 0#8 = 0x01#8) → exec (.frameSettings f) s = .refused .notAnInstruction) ∧
    (f.length ≠ 300 ∨ f.getD 4 0#8 = 0x01#8 ∨ f.getD 4 0#8 = 0x02#8 ∨ f.getD 4 0#8 = 0x03#8 →
      exec (.frameUnknown f) s = .refused .notAnInstruction))

/-- The frame of every instruction that is not APPEND, INGEST, TAKE or RESET: it changes nothing but the responses, so
every byte of the buffer, the count, the descriptor and the parameter are as before (20_memory.md R47). -/
def Obligations.PureOperationsChangeNoState : Prop :=
  ∀ (i : Instr) (s t : State), exec i s = .next t →
    (∀ c, i ≠ .append c) → (∀ c, i ≠ .ingest c) → (∀ o, i ≠ .take o) → (∀ o, i ≠ .reset o) →
    ∃ r : Response, t = { s with responses := s.responses ++ [r] }

/-- DECODE reads byte 4, the bytes of the descriptor's fields and the table entries below the cell count, none when it is 0,
and nothing else: the preamble, the declared length, the checksum byte and uncovered payload bytes influence no event (42_frame_decoder.md
R136, 30_encoding.md R62, R68). -/
def Obligations.DecodeReadsOnlyCoveredBytes : Prop :=
  ∀ (s : State) (f g : Bytes), f.length = 300 → g.length = 300 → f.getD 4 0#8 = g.getD 4 0#8 →
    (∀ o, Covered s.variant (cellCount s.variant f) o → f.getD o 0#8 = g.getD o 0#8) →
    exec (.decode (.assembled f)) s = exec (.decode (.assembled g)) s

/-! ## The bitfield extractor -/

/-- The cell count is the number of set bits of the three cell-presence bytes, wherever they stand, and at most 24
(43_bitfield_extractor.md R141; the range is the spec's own decision D39). -/
def Obligations.CellCountIsThePopulationCount : Prop :=
  ∀ (V : VariantDescriptor) (f : Bytes),
    (extractCellInfo V f).cellCount =
      ((V.maskOff.toList.flatMap fun o => (List.range 8).filter fun i => (f.getD o 0#8).getLsbD i)).length ∧
    (extractCellInfo V f).cellCount ≤ 24

/-- The cell voltages are the table's entries 0..N-1 in order, each unsigned, low byte first (43_bitfield_extractor.md
R142; unsigned is the spec's own decision D17). -/
def Obligations.CellVoltagesAreTheFirstTableEntries : Prop :=
  ∀ (V : VariantDescriptor) (f : Bytes),
    (extractCellInfo V f).cellMv.length = (extractCellInfo V f).cellCount ∧
    ∀ i, i < (extractCellInfo V f).cellCount →
      ((extractCellInfo V f).cellMv.getD i 0#16).toNat = num16 f (V.vtabOff + 2 * i)

/-- Every fixed-width field of the cell-info record is read at its descriptor offset, whatever the cell count and the
balancing state are: the one-byte fields as they stand, the wider ones as little-endian numbers but for the fault mask,
whose high byte comes first, and the enable flags as whether their byte is not zero (43_bitfield_extractor.md R143-R149,
R151-R168, 20_memory.md R41, R42; widths the document does not give are the spec's own decisions D18, D19, D20, D21). The
cell count, the voltages and the balance array, which are no fixed-width fields, have statements of their own. -/
def Obligations.RecordFieldsAreReadAtTheirOffsets : Prop :=
  ∀ (V : VariantDescriptor) (f : Bytes),
    let r := extractCellInfo V f
    (r.avgMv.toNat = num16 f V.avgOff ∧ r.deltaMv.toNat = num16 f V.deltaOff ∧
      r.maxIdx = f.getD V.maxidxOff 0#8 ∧ r.minIdx = f.getD V.minidxOff 0#8 ∧
      r.balStateRaw = f.getD V.balstateOff 0#8 ∧ r.balDisIdx = f.getD V.baldisOff 0#8 ∧
      r.balChgIdx = f.getD V.balchgOff 0#8 ∧ r.balCurRaw.toNat = num16 f V.balcurOff) ∧
    (r.packMvRaw.toNat = num32 f V.packvOff ∧ r.curMaRaw.toNat = num32 f V.curOff ∧
      r.t1Raw.toNat = num16 f V.t1Off ∧ r.t2Raw.toNat = num16 f V.t2Off ∧ r.tmosRaw.toNat = num16 f V.tmosOff ∧
      r.faultMask.toNat = 256 * (f.getD V.faultOff 0#8).toNat + (f.getD (V.faultOff + 1) 0#8).toNat ∧
      r.soc = f.getD V.socOff 0#8) ∧
    (r.remcapRaw.toNat = num32 f V.remcapOff ∧ r.totcapRaw.toNat = num32 f V.totcapOff ∧
      r.cyccnt.toNat = num32 f V.cyccntOff ∧ r.cyccapRaw.toNat = num32 f V.cyccapOff ∧
      r.runtimeS.toNat = num32 f V.runtimeOff ∧ (r.chgEn = true ↔ f.getD V.chgenOff 0#8 ≠ 0#8) ∧
      (r.disEn = true ↔ f.getD V.disenOff 0#8 ≠ 0#8) ∧ (r.heatEn = true ↔ f.getD V.heatenOff 0#8 ≠ 0#8) ∧
      r.heatCurRaw.toNat = num16 f V.heatcurOff)

/-- The fault mask is read high byte first, and the active faults are its set bit positions in ascending order; their
names are the parameter FAULT_NAME's, whatever it is (43_bitfield_extractor.md R157, 20_memory.md R42). -/
def Obligations.FaultMaskIsBigEndianAndListedAscending : Prop :=
  ∀ (V : VariantDescriptor) (f : Bytes),
    let mask := (extractCellInfo V f).faultMask
    mask.toNat = 256 * (f.getD V.faultOff 0#8).toNat + (f.getD (V.faultOff + 1) 0#8).toNat ∧
    (activeFaults mask).Pairwise (fun i j => i.val < j.val) ∧
    (∀ i : Fin 16, i ∈ activeFaults mask ↔ mask.getLsbD i.val = true) ∧
    (extractCellInfo V f).faultNames = (activeFaults mask).map Config.faultName

/-- The balance-active array has one entry per cell: all false when Off or invalid, and when charging or discharging true
exactly at the charge or discharge target (43_bitfield_extractor.md R147, R150; Invalid and the index base are the spec's
own decisions D22, D23). -/
def Obligations.BalanceArrayMarksTheTarget : Prop :=
  ∀ (V : VariantDescriptor) (f : Bytes),
    let r := extractCellInfo V f
    r.balActive.length = r.cellCount ∧
    (∀ i, i < r.cellCount → (r.balActive.getD i false = true ↔
      (r.balStateRaw = 0x01#8 ∧ i = r.balChgIdx.toNat) ∨ (r.balStateRaw = 0x02#8 ∧ i = r.balDisIdx.toNat))) ∧
    (r.balance = .off ↔ r.balStateRaw = 0x00#8) ∧ (r.balance = .charging ↔ r.balStateRaw = 0x01#8) ∧
    (r.balance = .discharging ↔ r.balStateRaw = 0x02#8) ∧
    (3 ≤ r.balStateRaw.toNat → r.balance = .invalid r.balStateRaw)

/-- An enable flag is true exactly when its byte is not zero (43_bitfield_extractor.md R164, R165, R166). -/
def Obligations.EnableFlagsAreNonzeroBytes : Prop :=
  ∀ (V : VariantDescriptor) (f : Bytes),
    let r := extractCellInfo V f
    (r.chgEn = true ↔ f.getD V.chgenOff 0#8 ≠ 0#8) ∧ (r.disEn = true ↔ f.getD V.disenOff 0#8 ≠ 0#8) ∧
    (r.heatEn = true ↔ f.getD V.heatenOff 0#8 ≠ 0#8)

/-- The vendor string is the window up to its first NUL, or all of it, its bytes unchanged, and the window lies in the
payload (43_bitfield_extractor.md R170). Holds of a 300-byte frame and a well-formed descriptor. -/
def Obligations.VendorStringEndsAtTheFirstNul : Prop :=
  ∀ (V : VariantDescriptor) (f : Bytes), descriptorWf V = true → f.length = 300 →
    let d := extractDeviceInfo V f
    d.vendorLen ≤ V.vendLen ∧ d.vendor.length = d.vendorLen ∧
    (∀ j, j < d.vendorLen → d.vendor.getD j 0#8 = f.getD (V.vendOff + j) 0#8 ∧ f.getD (V.vendOff + j) 0#8 ≠ 0#8) ∧
    (d.vendorLen < V.vendLen → f.getD (V.vendOff + d.vendorLen) 0#8 = 0#8) ∧
    6 ≤ V.vendOff ∧ V.vendOff + V.vendLen ≤ 299

/-- The signed readings are two's complement: the field's bits read as a signed integer (00_scope.md R12; the
representation is the spec's own decision D25, log 15). Every scaled quantity is the exact product of its reading, signed
or unsigned, and its scale (00_scope.md R15; 43_bitfield_extractor.md R142-R144, R151-R156, R159, R160, R162); the heating
current's scale is the parameter HEAT_CUR_SCALE, whatever it is (R167, log 14); the state of charge, the cycle count and
the runtime are the unsigned numbers themselves (R158, R161, R163). -/
def Obligations.SignedReadingsAreTwosComplement : Prop :=
  (∀ h : Half, signed16 h = (h.toNat : Int) - (if 2 ^ 15 ≤ h.toNat then 2 ^ 16 else 0) ∧
    -32768 ≤ signed16 h ∧ signed16 h ≤ 32767) ∧
  (∀ w : Word, signed32 w = (w.toNat : Int) - (if 2 ^ 31 ≤ w.toNat then 2 ^ 32 else 0) ∧
    -2 ^ 31 ≤ signed32 w ∧ signed32 w < 2 ^ 31) ∧
  (∀ r : CellInfo,
    (r.cellVolts.length = r.cellMv.length ∧ ∀ i, i < r.cellMv.length →
      1000 * r.cellVolts.getD i 0 = (r.cellMv.getD i 0#16).toNat) ∧
    (1000 * r.avgVolts = r.avgMv.toNat ∧ 1000 * r.deltaVolts = r.deltaMv.toNat) ∧
    (1000 * r.packVoltage = signed32 r.packMvRaw ∧ 1000 * r.packCurrent = signed32 r.curMaRaw ∧
      1000 * r.balCurrent = signed16 r.balCurRaw) ∧
    (10 * r.temperature1 = signed16 r.t1Raw ∧ 10 * r.temperature2 = signed16 r.t2Raw ∧
      10 * r.mosTemperature = signed16 r.tmosRaw) ∧
    (1000 * r.remainingCapacity = r.remcapRaw.toNat ∧ 1000 * r.totalCapacity = r.totcapRaw.toNat ∧
      1000 * r.cycleCapacity = r.cyccapRaw.toNat) ∧
    r.heatCurrent = signed16 r.heatCurRaw * Config.heatCurScale ∧
    (r.socPercent = r.soc.toNat ∧ r.cycles = r.cyccnt.toNat ∧ r.runtimeSeconds = r.runtimeS.toNat))

/-- Under a well-formed descriptor no read leaves offsets 6..298: every field, and every table entry a cell count can
select (00_scope.md R13, 10_state.md R25, 43_bitfield_extractor.md R140). -/
def Obligations.ReadsStayInsideThePayload : Prop :=
  ∀ (V : VariantDescriptor) (f : Bytes) (o : Nat), descriptorWf V = true → Covered V (cellCount V f) o →
    6 ≤ o ∧ o ≤ 298

/-! ## The byte form of a response -/

/-- A response is its status byte, its flag byte and its result's bytes; the flag byte has OVERFLOW, RESYNC, CSUM_MISMATCH
and UNKNOWN_TYPE in bits 0..3 and zeros above; the result of each operation has its bytes: none, the ready bit, the
present byte and the frame, the sum, the verdict, or the event, which is its tag and body (30_encoding.md R75, R77, R78;
all the spec's own decisions D5, D6). -/
def Obligations.ResponseBytesFollowTheFormat : Prop :=
  (∀ r : Response, r.toBytes =
    (match r.status with | .ok => 0x00#8 | .badOp => 0x01#8 | .errOperand => 0x02#8) :: r.diag.toByte ::
      r.result.toBytes) ∧
  (∀ d : Diag, d.toByte.toNat = d.overflow.toNat + 2 * d.resync.toNat + 4 * d.csumMismatch.toNat +
    8 * d.unknownType.toNat) ∧
  (Result.empty.toBytes = [] ∧ (∀ b : Bool, (Result.ready b).toBytes = [if b then 0x01#8 else 0x00#8]) ∧
    (Result.taken none).toBytes = [0x00#8] ∧ (∀ f : Bytes, (Result.taken (some f)).toBytes = 0x01#8 :: f) ∧
    (∀ b : Byte, (Result.sum b).toBytes = [b]) ∧
    (∀ b : Bool, (Result.verdict b).toBytes = [if b then 0x01#8 else 0x00#8]) ∧
    (∀ e : Event, (Result.event e).toBytes = e.toBytes)) ∧
  (Event.noEvent.toBytes = [0x00#8]) ∧ (∀ t : Byte, (Event.unhandled t).toBytes = [0x03#8, t]) ∧
  (∀ r : CellInfo, (Event.cellInfo r).toBytes = 0x01#8 :: r.toBytes) ∧
  (∀ d : DeviceInfo, (Event.deviceInfo d).toBytes = 0x02#8 :: d.toBytes)

/-- A decoded cell-info record takes 56 + 2N bytes: N first, then the N voltages, then the other fields in the order and
widths of 30_encoding.md R76, low byte first; the bitmap has bit `i` set exactly where cell `i` balances, and the enable
byte holds the three flags in bits 0..2 (R76, the spec's own decision D5). -/
def Obligations.CellInfoBytesHaveTheirLayout : Prop :=
  ∀ (V : VariantDescriptor) (f : Bytes),
    let r := extractCellInfo V f
    let q := r.toBytes
    let a := 1 + 2 * r.cellCount
    (q.length = a + 55 ∧ (q.getD 0 0#8).toNat = r.cellCount ∧
      ∀ i, i < r.cellCount → num16 q (1 + 2 * i) = (r.cellMv.getD i 0#16).toNat) ∧
    (num16 q a = r.avgMv.toNat ∧ num16 q (a + 2) = r.deltaMv.toNat ∧ q.getD (a + 4) 0#8 = r.maxIdx ∧
      q.getD (a + 5) 0#8 = r.minIdx ∧ q.getD (a + 6) 0#8 = r.balStateRaw ∧ q.getD (a + 7) 0#8 = r.balDisIdx ∧
      q.getD (a + 8) 0#8 = r.balChgIdx) ∧
    (∀ i, i < 32 → (num32 q (a + 9)).testBit i = r.balActive.getD i false) ∧
    (num16 q (a + 13) = r.balCurRaw.toNat ∧ num32 q (a + 15) = r.packMvRaw.toNat ∧
      num32 q (a + 19) = r.curMaRaw.toNat ∧ num16 q (a + 23) = r.t1Raw.toNat ∧ num16 q (a + 25) = r.t2Raw.toNat ∧
      num16 q (a + 27) = r.tmosRaw.toNat ∧ num16 q (a + 29) = r.faultMask.toNat ∧ q.getD (a + 31) 0#8 = r.soc) ∧
    (num32 q (a + 32) = r.remcapRaw.toNat ∧ num32 q (a + 36) = r.totcapRaw.toNat ∧
      num32 q (a + 40) = r.cyccnt.toNat ∧ num32 q (a + 44) = r.cyccapRaw.toNat ∧
      num32 q (a + 48) = r.runtimeS.toNat ∧
      (q.getD (a + 52) 0#8).toNat = r.chgEn.toNat + 2 * r.disEn.toNat + 4 * r.heatEn.toNat ∧
      num16 q (a + 53) = r.heatCurRaw.toNat)

/-- The byte form loses nothing: two decoded cell-info records with the same bytes are the same record (30_encoding.md
R76; "exact: a serialisation of the abstract record", D5). -/
def Obligations.CellInfoBytesDetermineTheRecord : Prop :=
  ∀ (V V' : VariantDescriptor) (f f' : Bytes),
    (extractCellInfo V f).toBytes = (extractCellInfo V' f').toBytes → extractCellInfo V f = extractCellInfo V' f'

/-- A decoded device-info record is its length in two bytes, low first, then the vendor bytes (30_encoding.md R79, the
spec's own decision D5). -/
def Obligations.DeviceInfoBytesHaveTheirLayout : Prop :=
  ∀ (V : VariantDescriptor) (f : Bytes), descriptorWf V = true → f.length = 300 →
    let d := extractDeviceInfo V f
    d.toBytes.length = 2 + d.vendorLen ∧ num16 d.toBytes 0 = d.vendorLen ∧ d.toBytes.drop 2 = d.vendor

/-! ## Encodings -/

/-- Decoding the bytes of a well-formed request gives it back, every operand at every value the encoding admits
(30_encoding.md R70-R73, the spec's own decisions D3, D4). -/
def Obligations.DecodeOfEncodeIsTheRequest : Prop :=
  ∀ (maxChunk : Nat) (i : Instr), maxChunk < 65536 → i.isRequest = true → i.wf maxChunk = true →
    decodeBytes (encode i) = .ok i

/-- Every request's bytes are the bytes of the instruction it decodes to: no bit of any request is dropped, well formed
or not (30_encoding.md R70-R73). -/
def Obligations.EncodeOfDecodeIsTheRequest : Prop :=
  ∀ q : Request, encode (decodeRequest q) = q.op :: q.tail

/-- A frame decodes to the row of its type byte, the row holds all its bytes, and well-formed rows decode to themselves;
bytes that are no whole frame are rejected as frameLength (30_encoding.md R60, R66, R67 for the lengths and the type
bytes). The rows as instructions, their decoder and the name of its rejection are the model's choice (log 10). -/
def Obligations.FrameRowsRoundTrip : Prop :=
  (∀ f : Bytes, f.length = 300 → ∃ i : Instr, decodeFrame f = .ok i ∧ encode i = f ∧ i.isRequest = false ∧
    i = (if f.getD 4 0#8 = 0x02#8 then .frameCellinfo f else if f.getD 4 0#8 = 0x03#8 then .frameDeviceinfo f
      else if f.getD 4 0#8 = 0x01#8 then .frameSettings f else .frameUnknown f)) ∧
  (∀ (maxChunk : Nat) (i : Instr), i.isRequest = false → i.wf maxChunk = true → decodeFrame (encode i) = .ok i) ∧
  (∀ f : Bytes, f.length ≠ 300 → decodeFrame f = .error .frameLength)

/-- A few requests written out from the spec's encodings decode to what they stand for (30_encoding.md R71, R73, R81;
95_test_vectors.md). The last clause, that no byte at all is rejected as emptyRequest, is the model's inference (log 8). -/
def Obligations.WrittenRequestsDecode : Prop :=
  decodeBytes [0x01, 0x05, 0x00, 0x55, 0xAA, 0xEB, 0x90, 0x02] =
    .ok (.append (.assembled [0x55, 0xAA, 0xEB, 0x90, 0x02])) ∧
  decodeBytes [0x02] = .ok (.isReady (.assembled ())) ∧
  decodeBytes [0x05, 0x03, 0x00, 0x02, 0x00, 0x01, 0x02, 0x03] =
    .ok (.checksum (.assembled ⟨2, [0x01, 0x02, 0x03]⟩)) ∧
  decodeBytes [0x06, 0x02, 0x00, 0x07, 0x07] = .ok (.validate (.assembled [0x07, 0x07])) ∧
  decodeBytes [0x01, 0x05, 0x00, 0xAA] = .ok (.append (.malformed [0x05, 0x00, 0xAA])) ∧
  decodeBytes [0x09, 0x05, 0x00] = .ok (.reservedOp 0x09 [0x05, 0x00]) ∧
  decodeBytes [] = .error .emptyRequest

/-- A request with a reserved code completes with BAD_OP, no flag, no result and no state change, whatever follows the
code (30_encoding.md R72, 60_exceptions.md R206; the spec's own decisions D4, D47); a reserved-op term with a defined
code is refused by name (the model's choice, log 11). -/
def Obligations.ReservedCodeAnswersBadOp : Prop :=
  (∀ (s : State) (q : Request), descriptorWf s.variant = true → ReservedRequest q →
    decodeRequest q = .reservedOp q.op q.tail ∧
    exec (.reservedOp q.op q.tail) s =
      .next { s with responses := s.responses ++ [⟨.badOp, {}, .empty⟩] }) ∧
  (∀ (s : State) (code : Byte) (tail : Bytes), descriptorWf s.variant = true → 1 ≤ code.toNat → code.toNat ≤ 8 →
    exec (.reservedOp code tail) s = .refused .notAnInstruction)

/-- The status of every request, read off its bytes: BAD_OP exactly for a reserved code, ERR_OPERAND exactly for a request
that is not well formed, OK exactly for one that is (30_encoding.md R72, R73; 60_exceptions.md R207; the spec's own
decisions D13, D15, D32, D47). -/
def Obligations.StatusIsDecidedByTheRequestBytes : Prop :=
  ∀ (s : State) (q : Request), descriptorWf s.variant = true →
    ∃ (t : State) (r : Response), exec (decodeRequest q) s = .next t ∧ t.responses = s.responses ++ [r] ∧
      (r.status = .badOp ↔ ReservedRequest q) ∧
      (r.status = .errOperand ↔ ¬ ReservedRequest q ∧ ¬ WellFormedRequest s.maxChunk.val q) ∧
      (r.status = .ok ↔ WellFormedRequest s.maxChunk.val q)

/-- An operand that is not accepted answers ERR_OPERAND with no flag, no result and no state change: a malformed request
of any of the eight operations, a chunk above MAX_CHUNK, a CHECKSUM length beyond the bytes, a DECODE length other than
300 (30_encoding.md R73, the spec's own decisions D13, D15, D47). -/
def Obligations.UnacceptedOperandsAnswerErrOperand : Prop :=
  ∀ (s : State) (i : Instr), descriptorWf s.variant = true →
    ((∃ tail : Bytes, i = .append (.malformed tail) ∨ i = .isReady (.malformed tail) ∨ i = .take (.malformed tail) ∨
        i = .reset (.malformed tail) ∨ i = .checksum (.malformed tail) ∨ i = .validate (.malformed tail) ∨
        i = .decode (.malformed tail) ∨ i = .ingest (.malformed tail)) ∨
      (∃ c : Bytes, s.maxChunk.val < c.length ∧ (i = .append (.assembled c) ∨ i = .ingest (.assembled c))) ∨
      (∃ a : ChecksumArgs, a.s.length < a.n.toNat ∧ i = .checksum (.assembled a)) ∨
      (∃ f : Bytes, f.length ≠ 300 ∧ i = .decode (.assembled f))) →
    exec i s = .next { s with responses := s.responses ++ [⟨.errOperand, {}, .empty⟩] }

/-! ## Whole-machine rules -/

/-- In every response OVERFLOW and RESYNC exclude each other, CSUM_MISMATCH and UNKNOWN_TYPE exclude each other, and only
APPEND and INGEST raise the first two, only INGEST the third, only DECODE and INGEST the fourth (60_exceptions.md R201,
R207; the spec's own decision D32). The frame-type row FRAME_UNKNOWN, which raises the fourth too, is DECODE's case as an
instruction, the model's choice (log 10). -/
def Obligations.DiagnosticFlagsExcludeEachOther : Prop :=
  ∀ (i : Instr) (s t : State) (r : Response), exec i s = .next t → t.responses = s.responses ++ [r] →
    ¬ (r.diag.overflow = true ∧ r.diag.resync = true) ∧
    ¬ (r.diag.csumMismatch = true ∧ r.diag.unknownType = true) ∧
    (r.diag.overflow = true ∨ r.diag.resync = true →
      (∃ c, i = .append (.assembled c)) ∨ (∃ c, i = .ingest (.assembled c))) ∧
    (r.diag.csumMismatch = true → ∃ c, i = .ingest (.assembled c)) ∧
    (r.diag.unknownType = true →
      (∃ f, i = .decode (.assembled f)) ∨ (∃ c, i = .ingest (.assembled c)) ∨ ∃ f, i = .frameUnknown f)

/-- A step of one instance leaves every other instance as it was, and is the step of that instance alone
(60_exceptions.md R214, the spec's own decision D36; log 18). -/
def Obligations.InstancesShareNoState : Prop :=
  ∀ (blocks after : List State) (k : Nat), stepInstance k blocks = .next after →
    after.length = blocks.length ∧ (∀ j, j ≠ k → after[j]? = blocks[j]?) ∧
    ∀ s, blocks[k]? = some s → ∃ t, step s = .next t ∧ after[k]? = some t
end

