-- ==== Sys2Proof/Laws/Checksum.lean ====
section
/-! SUPPORT. The additive checksum as a sum of numbers modulo 256. -/

namespace Sys2Proof.Machine

/-- The integer sum of a byte sequence. -/
def byteSum (s : Bytes) : Nat := (s.map BitVec.toNat).sum

@[simp] theorem byteSum_nil : byteSum [] = 0 := rfl
@[simp] theorem byteSum_cons (b : Byte) (s : Bytes) : byteSum (b :: s) = b.toNat + byteSum s := by simp [byteSum]
@[simp] theorem byteSum_append (s t : Bytes) : byteSum (s ++ t) = byteSum s + byteSum t := by simp [byteSum]

theorem foldl_add_toNat (s : Bytes) (a : Byte) :
    (s.foldl (fun acc b => acc + b) a).toNat = (a.toNat + byteSum s) % 256 := by
  induction s generalizing a with
  | nil => have := a.isLt; simp; omega
  | cons b s ih =>
    rw [List.foldl_cons, ih, byteSum_cons, BitVec.toNat_add]
    omega

/-- CHECKSUM is the integer sum modulo 256 (41_checksum.md R120). -/
theorem checksum_toNat (s : Bytes) (n : Nat) : (checksum s n).toNat = byteSum (s.take n) % 256 := by
  simp [checksum, foldl_add_toNat]

@[simp] theorem validFrame_nil : validFrame [] = false := rfl

/-- VALIDATE of a frame split into its body and its last byte (41_checksum.md R122). -/
theorem validFrame_append (xs : Bytes) (b : Byte) :
    validFrame (xs ++ [b]) = decide (byteSum xs % 256 = b.toNat) := by
  unfold validFrame
  have h1 : (xs ++ [b]).length ≠ 0 := by simp
  rw [if_neg h1]
  have h2 : u8 (xs ++ [b]) ((xs ++ [b]).length - 1) = b := by simp [u8]
  rw [h2]
  congr 1
  apply propext
  rw [← BitVec.toNat_inj, checksum_toNat]
  simp

end Sys2Proof.Machine
end

