-- ==== Sys2Proof/Laws/Decode.lean ====
section
/-! SUPPORT. The length fields, and what each operand assembly answers. -/

namespace Sys2Proof

theorem lenField_toNat (lo hi : Byte) : (lenField lo hi).toNat = lo.toNat + 256 * hi.toNat := by
  have hb : lo.toNat < 2 ^ 8 := lo.isLt
  unfold lenField
  rw [BitVec.toNat_append, ← Nat.shiftLeft_add_eq_or_of_lt hb, Nat.shiftLeft_eq]
  omega

/-- The two bytes of a 16-bit number give it back. -/
theorem lenField_encode {n : Nat} (h : n < Config.lenBound) :
    (lenField (BitVec.ofNat 8 n) (BitVec.ofNat 8 (n / 256))).toNat = n := by
  simp only [Config.lenBound] at h
  rw [lenField_toNat, BitVec.toNat_ofNat, BitVec.toNat_ofNat]
  omega

/-- The bytes of a length field are the length field's. -/
theorem encodeLen_lenField (lo hi : Byte) : encodeLen (lenField lo hi).toNat = [lo, hi] := by
  have h1 := lo.isLt
  have h2 := hi.isLt
  unfold encodeLen
  rw [lenField_toNat]
  congr 1
  · apply BitVec.eq_of_toNat_eq; rw [BitVec.toNat_ofNat]; omega
  · congr 1
    apply BitVec.eq_of_toNat_eq; rw [BitVec.toNat_ofNat]; omega

theorem assembleSeq_encode {c : Bytes} (h : c.length < Config.lenBound) :
    assembleSeq (encodeSeq (.assembled c)) = .assembled c := by
  simp only [encodeSeq, encodeLen, assembleSeq, List.cons_append, List.nil_append]
  rw [lenField_encode h, if_pos rfl]

theorem encode_assembleSeq (tail : Bytes) : encodeSeq (assembleSeq tail) = tail := by
  unfold assembleSeq
  split
  · split
    · next h => simp only [encodeSeq]; rw [h, encodeLen_lenField]; rfl
    · rfl
  · rfl

theorem assembleChecksum_encode {a : ChecksumArgs} (h : a.s.length < Config.lenBound) :
    assembleChecksum (encodeChecksum (.assembled a)) = .assembled a := by
  simp only [encodeChecksum, encodeLen, assembleChecksum, List.cons_append, List.nil_append]
  rw [lenField_encode h, if_pos rfl]
  have : lenField (BitVec.ofNat 8 a.n.toNat) (BitVec.ofNat 8 (a.n.toNat / 256)) = a.n :=
    BitVec.eq_of_toNat_eq (lenField_encode a.n.isLt)
  rw [this]

theorem encode_assembleChecksum (tail : Bytes) : encodeChecksum (assembleChecksum tail) = tail := by
  unfold assembleChecksum
  split
  · split
    · next h => simp only [encodeChecksum]; rw [h, encodeLen_lenField, encodeLen_lenField]; rfl
    · rfl
  · rfl

theorem encode_assembleNone (tail : Bytes) : encodeNone (assembleNone tail) = tail := by
  cases tail <;> rfl

/-- An assembled sequence is no longer than its length field can say. -/
theorem assembleSeq_length {tail c : Bytes} (h : assembleSeq tail = .assembled c) : c.length < Config.lenBound := by
  unfold assembleSeq at h
  split at h
  · split at h
    · next h' => cases h; rw [h']; exact (lenField _ _).isLt
    · cases h
  · cases h

theorem assembleChecksum_length {tail : Bytes} {a : ChecksumArgs} (h : assembleChecksum tail = .assembled a) :
    a.s.length < Config.lenBound := by
  unfold assembleChecksum at h
  split at h
  · split at h
    · next h' => cases h; rw [h']; exact (lenField _ _).isLt
    · cases h
  · cases h

theorem frameTypeByte?_of_length {f : Bytes} (h : f.length = Config.frameLen) :
    frameTypeByte? f = some (f.getD Config.typeOff 0#8) := by
  have : Config.typeOff < f.length := by rw [h]; decide
  simp [frameTypeByte?, h, List.getD_eq_getElem?_getD, List.getElem?_eq_getElem this]

theorem frameTypeByte?_length {f : Bytes} {t : Byte} (h : frameTypeByte? f = some t) : f.length = Config.frameLen := by
  unfold frameTypeByte? at h
  split at h
  · assumption
  · cases h

end Sys2Proof
end

