-- ==== Sys2Proof/Laws/Operands.lean ====
section
/-! SUPPORT. The reading primitives as numbers, and what they read. -/

namespace Sys2Proof.Machine

theorem toNat_append8 {n : Nat} (a : BitVec n) (b : Byte) : (a ++ b).toNat = 256 * a.toNat + b.toNat := by
  have hb : b.toNat < 2 ^ 8 := b.isLt
  rw [BitVec.toNat_append, ← Nat.shiftLeft_add_eq_or_of_lt hb, Nat.shiftLeft_eq]
  omega

theorem u16le_toNat (f : Bytes) (o : Nat) : (u16le f o).toNat = (u8 f o).toNat + 256 * (u8 f (o + 1)).toNat := by
  unfold u16le; rw [toNat_append8]; omega

theorem u16be_toNat (f : Bytes) (o : Nat) : (u16be f o).toNat = 256 * (u8 f o).toNat + (u8 f (o + 1)).toNat := by
  unfold u16be; rw [toNat_append8]

theorem u32le_toNat (f : Bytes) (o : Nat) :
    (u32le f o).toNat = (u8 f o).toNat + 2 ^ 8 * (u8 f (o + 1)).toNat + 2 ^ 16 * (u8 f (o + 2)).toNat
      + 2 ^ 24 * (u8 f (o + 3)).toNat := by
  have h : (u32le f o).toNat = (u8 f (o + 3) ++ u8 f (o + 2) ++ u8 f (o + 1) ++ u8 f o : BitVec (8 + 8 + 8 + 8)).toNat :=
    rfl
  rw [h, toNat_append8, toNat_append8, toNat_append8]; omega

theorem popcount_le (b : Byte) : popcount b ≤ 8 := by
  unfold popcount
  exact (List.countP_le_length).trans (by simp)

theorem cellCount_le (V : VariantDescriptor) (f : Bytes) : cellCount V f ≤ Config.cellsMax := by
  unfold cellCount
  have key : ∀ l : List Nat, (l.map fun o => popcount (u8 f o)).sum ≤ 8 * l.length := by
    intro l
    induction l with
    | nil => simp
    | cons o l ih =>
      have := popcount_le (u8 f o)
      simp only [List.map_cons, List.sum_cons, List.length_cons]; omega
  simpa using key V.maskOff.toList

@[simp] theorem cellVoltages_length (V : VariantDescriptor) (f : Bytes) (n : Nat) :
    (cellVoltages V f n).length = n := by simp [cellVoltages]

@[simp] theorem balanceArray_length (n : Nat) (a b c : Byte) : (balanceArray n a b c).length = n := by
  simp [balanceArray]

theorem firstNul_le (w : Bytes) : firstNul w ≤ w.length := by
  induction w with
  | nil => simp [firstNul]
  | cons b w ih => unfold firstNul; split <;> simp; omega

/-- Before the first NUL there is none. -/
theorem take_firstNul (w : Bytes) : ∀ b ∈ w.take (firstNul w), b ≠ 0#8 := by
  induction w with
  | nil => simp
  | cons b w ih =>
    unfold firstNul
    split
    · simp
    · next hb =>
      intro x hx
      rcases List.mem_cons.mp (by simpa using hx) with rfl | hx
      · exact hb
      · exact ih x hx

/-- The byte at the first NUL, where there is one, is a NUL. -/
theorem getD_firstNul (w : Bytes) : w.getD (firstNul w) 0#8 = 0#8 := by
  induction w with
  | nil => simp
  | cons b w ih =>
    unfold firstNul
    split
    · next hb => simp [hb]
    · simpa using ih

/-- A signed 2-byte field is the two's complement reading of its bits (00_scope.md R12). -/
theorem signed16_eq (h : Half) : signed16 h = h.toInt := by
  unfold signed16 sext
  rw [BitVec.toInt_eq_toNat_cond]
  have := h.isLt
  split <;> split <;> first | rfl | omega

/-- A signed 4-byte field is the two's complement reading of its bits (00_scope.md R12). -/
theorem signed32_eq (w : Word) : signed32 w = w.toInt := by
  unfold signed32 sext
  rw [BitVec.toInt_eq_toNat_cond]
  have := w.isLt
  split <;> split <;> first | rfl | omega

end Sys2Proof.Machine
end

