-- ==== Sys2Proof/Laws/Descriptor.lean ====
section
/-! SUPPORT. Under a well-formed descriptor every read lies in the payload (10_state.md R25, 00_scope.md R13). -/

namespace Sys2Proof.Machine

variable {V : VariantDescriptor}

theorem descriptorWf_iff :
    descriptorWf V = true ↔
      wfPayload V = true ∧ wfVtab V = true ∧ wfMask V = true ∧ wfDownstream V = true ∧ wfVend V = true := by
  simp [descriptorWf, and_assoc]

/-- Every field of the descriptor lies in the payload. -/
theorem field_in_payload (h : descriptorWf V = true) {o w : Nat} (hf : (o, w) ∈ descriptorFields V) :
    Config.payloadLo ≤ o ∧ o + w ≤ Config.payloadHi + 1 := by
  have hp := (descriptorWf_iff.mp h).1
  simp only [wfPayload, List.all_eq_true, Bool.and_eq_true, decide_eq_true_eq] at hp
  have := hp _ hf
  simp only at this
  omega

/-- Every field but the table is a field. -/
theorem fixedFields_subset {ow : Nat × Nat} (h : ow ∈ fixedFields V) : ow ∈ descriptorFields V :=
  List.mem_cons_of_mem _ h

/-- Every table entry a cell count can select lies in the payload. -/
theorem table_in_payload (h : descriptorWf V = true) {i : Nat} (hi : i < Config.cellsMax) :
    Config.payloadLo ≤ V.vtabOff + 2 * i ∧ V.vtabOff + 2 * i + 2 ≤ Config.payloadHi + 1 := by
  have hv := (descriptorWf_iff.mp h).2.1
  simp only [wfVtab, Bool.and_eq_true, decide_eq_true_eq] at hv
  have h0 : (V.vtabOff, 2) ∈ descriptorFields V := by simp [descriptorFields]
  have := field_in_payload h h0
  omega

end Sys2Proof.Machine
end

