-- ==== Sys2Proof/Laws/Memory.lean ====
section
/-! SUPPORT. The laws of the buffer's storage: read after write, the canonical form is kept, equal contents are equal
data. -/

namespace Sys2Proof.Machine

@[simp] theorem read_nil (p : Nat) : Memory.read [] p = 0#8 := rfl

theorem read_cons (a : Nat) (x : Byte) (m : Memory) (p : Nat) :
    Memory.read ((a, x) :: m) p = if a = p then x else Memory.read m p := rfl

/-- A position below every listed one reads as unlisted. -/
theorem read_of_all_lt (m : Memory) (p : Nat) (h : ∀ c ∈ m, p < c.1) : Memory.read m p = 0#8 := by
  induction m with
  | nil => rfl
  | cons e m ih =>
    obtain ⟨a, x⟩ := e
    have ha : p < a := h (a, x) (by simp)
    rw [read_cons, if_neg (by omega)]
    exact ih fun c hc => h c (by simp [hc])

theorem memoryEntry_read (p q : Nat) (b : Byte) :
    Memory.read (memoryEntry p b) q = if q = p then b else 0#8 := by
  unfold memoryEntry
  by_cases hb : b = 0#8
  · simp [hb]
  · by_cases hq : q = p
    · simp [hb, read_cons, hq]
    · simp [hb, read_cons, hq, Ne.symm hq]

theorem memoryEntry_append_read (p q : Nat) (b : Byte) (m : Memory) (h : ∀ c ∈ m, p < c.1) :
    Memory.read (memoryEntry p b ++ m) q = if q = p then b else Memory.read m q := by
  unfold memoryEntry
  by_cases hb : b = 0#8
  · by_cases hq : q = p
    · subst hq; simp [hb, read_of_all_lt m q h]
    · simp [hb, hq]
  · by_cases hq : q = p
    · simp [hb, read_cons, hq]
    · simp [hb, read_cons, hq, Ne.symm hq]

/-- A sorted list stays sorted when an entry before all of it is put in front. -/
theorem memoryEntry_append_sorted (p : Nat) (b : Byte) (m : Memory) (hm : m.Pairwise fun a b => a.1 < b.1)
    (h : ∀ c ∈ m, p < c.1) : (memoryEntry p b ++ m).Pairwise fun a b => a.1 < b.1 := by
  unfold memoryEntry
  by_cases hb : b = 0#8
  · simpa [hb] using hm
  · simp only [hb, if_false, List.singleton_append, List.pairwise_cons]
    exact ⟨h, hm⟩

theorem mem_memoryEntry {p : Nat} {b : Byte} {c : Host.Cell} (h : c ∈ memoryEntry p b) : c = (p, b) ∧ b ≠ 0#8 := by
  unfold memoryEntry at h
  by_cases hb : b = 0#8
  · simp [hb] at h
  · rw [if_neg hb] at h; exact ⟨List.mem_singleton.mp h, hb⟩

/-- What a write leaves in the list: the written entry, or entries that were there. -/
theorem mem_write {m : Memory} {p : Nat} {b : Byte} {c : Host.Cell} (h : c ∈ m.write p b) :
    (c = (p, b) ∧ b ≠ 0#8) ∨ c ∈ m := by
  induction m with
  | nil => exact .inl (mem_memoryEntry h)
  | cons e m ih =>
    obtain ⟨a, x⟩ := e
    simp only [Memory.write] at h
    split at h
    · rcases List.mem_append.mp h with h | h
      · exact .inl (mem_memoryEntry h)
      · exact .inr h
    · split at h
      · rcases List.mem_append.mp h with h | h
        · exact .inl (mem_memoryEntry h)
        · exact .inr (by simp [h])
      · rcases List.mem_cons.mp h with h | h
        · exact .inr (by simp [h])
        · rcases ih h with h | h
          · exact .inl h
          · exact .inr (by simp [h])

/-- A read after a write: the written byte at the written position, every other byte as before. -/
theorem read_write {m : Memory} (hm : m.wf) (p q : Nat) (b : Byte) :
    (m.write p b).read q = if q = p then b else m.read q := by
  obtain ⟨hs, -⟩ := hm
  induction m with
  | nil => simp [Memory.write, memoryEntry_read]
  | cons e m ih =>
    obtain ⟨a, x⟩ := e
    obtain ⟨hlt, hs'⟩ := List.pairwise_cons.mp hs
    simp only [Memory.write]
    by_cases h1 : p < a
    · rw [if_pos h1, memoryEntry_append_read]
      intro c hc
      rcases List.mem_cons.mp hc with hc | hc
      · simpa [hc] using h1
      · exact lt_trans h1 (hlt c hc)
    · by_cases h2 : p = a
      · subst h2
        rw [if_neg h1, if_pos rfl, memoryEntry_append_read p q b m hlt, read_cons]
        by_cases hq : q = p
        · simp [hq]
        · simp [hq, Ne.symm hq]
      · rw [if_neg h1, if_neg h2, read_cons, read_cons, ih hs']
        by_cases hq : a = q
        · simp [hq]; intro h; omega
        · simp [hq]

theorem write_wf {m : Memory} (hm : m.wf) {p : Nat} (hp : p < Config.frameLen) (b : Byte) : (m.write p b).wf := by
  refine ⟨?_, fun c hc => ?_⟩
  · obtain ⟨hs, -⟩ := hm
    induction m with
    | nil => unfold Memory.write memoryEntry; split <;> simp
    | cons e m ih =>
      obtain ⟨a, x⟩ := e
      have hs0 := hs
      obtain ⟨hlt, hs'⟩ := List.pairwise_cons.mp hs
      simp only [Memory.write]
      split
      · next h1 =>
        refine memoryEntry_append_sorted p b _ hs0 fun c hc => ?_
        rcases List.mem_cons.mp hc with hc | hc
        · simpa [hc] using h1
        · exact lt_trans h1 (hlt c hc)
      · split
        · next h2 => exact memoryEntry_append_sorted p b m hs' fun c hc => h2 ▸ hlt c hc
        · refine List.pairwise_cons.mpr ⟨fun c hc => ?_, ih hs'⟩
          rcases mem_write hc with ⟨rfl, -⟩ | hc
          · show a < p; omega
          · exact hlt c hc
  · rcases mem_write hc with ⟨rfl, hb⟩ | hc
    · exact ⟨hp, hb⟩
    · exact hm.2 c hc

theorem nil_wf : Memory.wf [] := ⟨List.Pairwise.nil, fun _ h => absurd h List.not_mem_nil⟩

theorem storeChunk_wf (c : Bytes) {m : Memory} (hm : m.wf) (pos : Nat) : (storeChunk m pos c).wf := by
  induction c generalizing m pos with
  | nil => exact hm
  | cons b c ih =>
    simp only [storeChunk]
    split
    · next h => exact ih (write_wf hm h b) _
    · exact ih hm _

/-- Step S3's loop, at every position: the chunk's bytes where they fall inside the buffer, every other byte as
before. -/
theorem storeChunk_read (c : Bytes) {m : Memory} (hm : m.wf) (pos q : Nat) :
    (storeChunk m pos c).read q =
      if pos ≤ q ∧ q < pos + c.length ∧ q < Config.frameLen then c.getD (q - pos) 0#8 else m.read q := by
  induction c generalizing m pos with
  | nil => simp [storeChunk]; intro h1 h2; omega
  | cons b c ih =>
    have key : (if pos < Config.frameLen then m.write pos b else m).wf := by
      split
      · next h => exact write_wf hm h b
      · exact hm
    have hread : (if pos < Config.frameLen then m.write pos b else m).read q =
        if q = pos ∧ q < Config.frameLen then b else m.read q := by
      split
      · next h =>
        rw [read_write hm]
        by_cases hq : q = pos <;> simp [hq, h]
      · next h =>
        rw [if_neg]; rintro ⟨rfl, h'⟩; exact h h'
    simp only [storeChunk]
    rw [ih key, hread]
    by_cases hq : q = pos
    · subst hq
      by_cases hf : q < Config.frameLen <;> simp [hf]
    · by_cases hle : pos ≤ q
      · have hle' : pos + 1 ≤ q := by omega
        have e : q - pos = (q - (pos + 1)) + 1 := by omega
        have e1 : (pos + 1 ≤ q ∧ q < pos + 1 + c.length ∧ q < Config.frameLen) ↔
            (pos ≤ q ∧ q < pos + (b :: c).length ∧ q < Config.frameLen) := by
          simp only [List.length_cons]; omega
        simp only [e1, hq, false_and, if_false]
        split
        · rw [e, List.getD_cons_succ]
        · rfl
      · rw [if_neg (by omega), if_neg (by omega), if_neg (by omega)]

/-- In canonical form equal contents are equal data. -/
theorem memory_ext {m m' : Memory} (hm : m.wf) (hm' : m'.wf) (h : ∀ p, m.read p = m'.read p) : m = m' := by
  induction m generalizing m' with
  | nil =>
    cases m' with
    | nil => rfl
    | cons e m' =>
      obtain ⟨a, x⟩ := e
      have := h a
      simp [read_cons] at this
      exact absurd this.symm (hm'.2 (a, x) (by simp)).2
  | cons e m ih =>
    obtain ⟨a, x⟩ := e
    obtain ⟨hlt, hs⟩ := List.pairwise_cons.mp hm.1
    cases m' with
    | nil =>
      have := h a
      simp [read_cons] at this
      exact absurd this (hm.2 (a, x) (by simp)).2
    | cons e' m' =>
      obtain ⟨a', x'⟩ := e'
      obtain ⟨hlt', hs'⟩ := List.pairwise_cons.mp hm'.1
      have hx := (hm.2 (a, x) (by simp)).2
      have hx' := (hm'.2 (a', x') (by simp)).2
      have haa : a = a' := by
        rcases lt_trichotomy a a' with hl | rfl | hl
        · have := h a
          rw [read_cons, if_pos rfl, read_of_all_lt] at this
          · exact absurd this hx
          · intro c hc
            rcases List.mem_cons.mp hc with rfl | hc
            · exact hl
            · exact lt_trans hl (hlt' c hc)
        · rfl
        · have := h a'
          rw [read_cons a' x', if_pos rfl, read_of_all_lt] at this
          · exact absurd this.symm hx'
          · intro c hc
            rcases List.mem_cons.mp hc with rfl | hc
            · exact hl
            · exact lt_trans hl (hlt c hc)
      subst haa
      have hxx : x = x' := by simpa [read_cons] using h a
      subst hxx
      rw [ih (m' := m') ⟨hs, fun c hc => hm.2 c (by simp [hc])⟩ ⟨hs', fun c hc => hm'.2 c (by simp [hc])⟩]
      intro p
      by_cases hp : a = p
      · subst hp
        rw [read_of_all_lt m a hlt, read_of_all_lt m' a hlt']
      · simpa [read_cons, hp] using h p

@[simp] theorem readFrame_length (m : Memory) : (readFrame m).length = Config.frameLen := by simp [readFrame]

theorem readFrame_getD (m : Memory) {p : Nat} (h : p < Config.frameLen) : (readFrame m).getD p 0#8 = m.read p := by
  simp only [Config.frameLen] at h
  simp [readFrame, List.getD_eq_getElem?_getD, h]

end Sys2Proof.Machine
end

