-- ==== Sys2Proof/Laws/State.lean ====
section
/-! SUPPORT. One lemma per field per update of State, so that no proof unfolds a record update. -/

namespace Sys2Proof.Machine

variable (s : State) (r : Response) (c : Bytes) (q : Request)

@[simp] theorem clearCount_buf : (clearCount s).buf = s.buf := rfl
@[simp] theorem clearCount_count : (clearCount s).count = 0 := rfl
@[simp] theorem clearCount_variant : (clearCount s).variant = s.variant := rfl
@[simp] theorem clearCount_maxChunk : (clearCount s).maxChunk = s.maxChunk := rfl
@[simp] theorem clearCount_requests : (clearCount s).requests = s.requests := rfl
@[simp] theorem clearCount_responses : (clearCount s).responses = s.responses := rfl

@[simp] theorem emit_buf : (emit s r).buf = s.buf := rfl
@[simp] theorem emit_count : (emit s r).count = s.count := rfl
@[simp] theorem emit_variant : (emit s r).variant = s.variant := rfl
@[simp] theorem emit_maxChunk : (emit s r).maxChunk = s.maxChunk := rfl
@[simp] theorem emit_requests : (emit s r).requests = s.requests := rfl
@[simp] theorem emit_responses : (emit s r).responses = s.responses ++ [r] := rfl

@[simp] theorem placeRequest_buf : (placeRequest s q).buf = s.buf := rfl
@[simp] theorem placeRequest_count : (placeRequest s q).count = s.count := rfl
@[simp] theorem placeRequest_variant : (placeRequest s q).variant = s.variant := rfl
@[simp] theorem placeRequest_maxChunk : (placeRequest s q).maxChunk = s.maxChunk := rfl
@[simp] theorem placeRequest_requests : (placeRequest s q).requests = q :: s.requests := rfl
@[simp] theorem placeRequest_responses : (placeRequest s q).responses = s.responses := rfl

@[simp] theorem stepS1_buf : (stepS1 s).buf = s.buf := by unfold stepS1; split <;> rfl
@[simp] theorem stepS1_count : (stepS1 s).count = if Config.bufMax < s.count then 0 else s.count := by
  unfold stepS1 overflowing; by_cases h : Config.bufMax < s.count <;> simp [h]
@[simp] theorem stepS1_variant : (stepS1 s).variant = s.variant := by unfold stepS1; split <;> rfl
@[simp] theorem stepS1_maxChunk : (stepS1 s).maxChunk = s.maxChunk := by unfold stepS1; split <;> rfl
@[simp] theorem stepS1_requests : (stepS1 s).requests = s.requests := by unfold stepS1; split <;> rfl
@[simp] theorem stepS1_responses : (stepS1 s).responses = s.responses := by unfold stepS1; split <;> rfl

@[simp] theorem stepS2_buf : (stepS2 c s).buf = s.buf := by unfold stepS2; split <;> rfl
@[simp] theorem stepS2_count : (stepS2 c s).count = if beginsWithPreamble c then 0 else s.count := by
  unfold stepS2; split <;> rfl
@[simp] theorem stepS2_variant : (stepS2 c s).variant = s.variant := by unfold stepS2; split <;> rfl
@[simp] theorem stepS2_maxChunk : (stepS2 c s).maxChunk = s.maxChunk := by unfold stepS2; split <;> rfl
@[simp] theorem stepS2_requests : (stepS2 c s).requests = s.requests := by unfold stepS2; split <;> rfl
@[simp] theorem stepS2_responses : (stepS2 c s).responses = s.responses := by unfold stepS2; split <;> rfl

@[simp] theorem stepS3_buf : (stepS3 c s).buf = storeChunk s.buf s.count c := rfl
@[simp] theorem stepS3_count : (stepS3 c s).count = s.count + c.length := rfl
@[simp] theorem stepS3_variant : (stepS3 c s).variant = s.variant := rfl
@[simp] theorem stepS3_maxChunk : (stepS3 c s).maxChunk = s.maxChunk := rfl
@[simp] theorem stepS3_requests : (stepS3 c s).requests = s.requests := rfl
@[simp] theorem stepS3_responses : (stepS3 c s).responses = s.responses := rfl

@[simp] theorem accumulate_variant : (accumulate c s).variant = s.variant := by simp [accumulate]
@[simp] theorem accumulate_maxChunk : (accumulate c s).maxChunk = s.maxChunk := by simp [accumulate]
@[simp] theorem accumulate_requests : (accumulate c s).requests = s.requests := by simp [accumulate]
@[simp] theorem accumulate_responses : (accumulate c s).responses = s.responses := by simp [accumulate]

variable (V : VariantDescriptor) (m : Fin Config.lenBound) (b : Memory)

@[simp] theorem construct_buf : (State.construct V m b).buf = b := rfl
@[simp] theorem construct_count : (State.construct V m b).count = 0 := rfl
@[simp] theorem construct_variant : (State.construct V m b).variant = V := rfl
@[simp] theorem construct_maxChunk : (State.construct V m b).maxChunk = m := rfl
@[simp] theorem construct_requests : (State.construct V m b).requests = [] := rfl
@[simp] theorem construct_responses : (State.construct V m b).responses = [] := rfl

end Sys2Proof.Machine
end

