-- ==== Sys2Proof/Laws/Ops.lean ====
section
/-! SUPPORT. What each shared operation can do, said once: the request shell, the replies, the three steps of APPEND. -/

namespace Sys2Proof.Machine

/-! ## The request shell -/

@[simp] theorem onBuilt_of_wf {s : State} (h : descriptorWf s.variant = true)
    (run : Host.Outcome State Fault Refusal) : onBuilt s run = run := by simp [onBuilt, h]

@[simp] theorem onBuilt_of_not_wf {s : State} (h : descriptorWf s.variant = false)
    (run : Host.Outcome State Fault Refusal) : onBuilt s run = .refused .illFormedDescriptor := by simp [onBuilt, h]

/-- A block that answers a next state was built with a well-formed descriptor. -/
theorem onBuilt_next {s t : State} {run : Host.Outcome State Fault Refusal} (h : onBuilt s run = .next t) :
    descriptorWf s.variant = true ∧ run = .next t := by
  unfold onBuilt at h
  split at h
  · next hw => exact ⟨hw, h⟩
  · cases h

section
variable {α : Type} {s t : State} {accepts : α → Bool} {run : α → Host.Outcome State Fault Refusal}

/-- An accepted operand runs. -/
theorem onRequest_accepted (hw : descriptorWf s.variant = true) {a : α} (ha : accepts a = true) :
    onRequest (.assembled a) accepts s run = run a := by simp [onRequest, hw, ha]

/-- An operand out of range answers ERR_OPERAND. -/
theorem onRequest_rejected (hw : descriptorWf s.variant = true) {a : α} (ha : accepts a = false) :
    onRequest (.assembled a) accepts s run = replyErrOperand s := by simp [onRequest, hw, ha]

/-- A request whose lengths disagree answers ERR_OPERAND. -/
theorem onRequest_malformed (hw : descriptorWf s.variant = true) (tail : Bytes) :
    onRequest (.malformed tail) accepts s run = replyErrOperand s := by simp [onRequest, hw]

/-- Everything a request can do, if it answers a next state. -/
theorem onRequest_next {o : Operand α} (h : onRequest o accepts s run = .next t) :
    descriptorWf s.variant = true ∧
      ((∃ a, o = .assembled a ∧ accepts a = true ∧ run a = .next t) ∨ t = emit s ⟨.errOperand, {}, .empty⟩) := by
  obtain ⟨hw, h⟩ := onBuilt_next h
  refine ⟨hw, ?_⟩
  cases o with
  | assembled a =>
    cases ha : accepts a with
    | true => exact .inl ⟨a, rfl, ha, by simpa [ha] using h⟩
    | false => right; simpa [ha, replyErrOperand, eq_comm] using h
  | malformed tail => right; simpa [replyErrOperand, eq_comm] using h

end

/-! ## Replies -/

@[simp] theorem replyOk_eq (s : State) (d : Diag) (x : Result) : replyOk s d x = .next (emit s ⟨.ok, d, x⟩) := rfl
@[simp] theorem replyErrOperand_eq (s : State) :
    replyErrOperand s = .next (emit s ⟨.errOperand, {}, .empty⟩) := rfl
@[simp] theorem replyBadOp_eq (s : State) : replyBadOp s = .next (emit s ⟨.badOp, {}, .empty⟩) := rfl

/-! ## The three steps of APPEND -/

/-- The bytes that survive steps S1 and S2: none on overflow or on a preamble, all of them otherwise. -/
def keptCount (c : Bytes) (s : State) : Nat :=
  if beginsWithPreamble c then 0 else if Config.bufMax < s.count then 0 else s.count

theorem keptCount_eq (c : Bytes) (s : State) : (stepS2 c (stepS1 s)).count = keptCount c s := by
  simp [keptCount]

theorem keptCount_le (c : Bytes) (s : State) : keptCount c s ≤ Config.bufMax := by
  unfold keptCount
  split
  · simp
  · split <;> omega

theorem keptCount_le_count (c : Bytes) (s : State) : keptCount c s ≤ s.count := by
  unfold keptCount
  split
  · omega
  · split <;> omega

@[simp] theorem accumulate_count (c : Bytes) (s : State) : (accumulate c s).count = keptCount c s + c.length := by
  rw [← keptCount_eq]; rfl

@[simp] theorem accumulate_buf (c : Bytes) (s : State) :
    (accumulate c s).buf = storeChunk s.buf (keptCount c s) c := by
  rw [← keptCount_eq]; simp [accumulate]

/-- Every position of the buffer after APPEND's steps. -/
theorem accumulate_read {s : State} (hm : s.buf.wf) (c : Bytes) (p : Nat) :
    (accumulate c s).buf.read p =
      if keptCount c s ≤ p ∧ p < keptCount c s + c.length ∧ p < Config.frameLen then c.getD (p - keptCount c s) 0#8
      else s.buf.read p := by
  rw [accumulate_buf, storeChunk_read c hm]

theorem accumulate_wf {s : State} (hm : s.buf.wf) (c : Bytes) : (accumulate c s).buf.wf := by
  rw [accumulate_buf]; exact storeChunk_wf c hm _

/-- The flags of APPEND's steps exclude each other (60_exceptions.md R207). -/
theorem accumulateDiag_eq (c : Bytes) (s : State) :
    accumulateDiag c s =
      { overflow := decide (Config.bufMax < s.count),
        resync := beginsWithPreamble c && decide (0 < s.count) && decide (s.count ≤ Config.bufMax) } := by
  unfold accumulateDiag overflowing
  by_cases h : Config.bufMax < s.count
  · simp [h, Nat.not_le.mpr h]
  · simp [h, Nat.le_of_not_lt h]

@[simp] theorem ready_eq (s : State) : s.ready = decide (Config.frameLen ≤ s.count) := rfl

theorem beginsWithPreamble_length {c : Bytes} (h : beginsWithPreamble c = true) : 4 ≤ c.length := by
  simp [beginsWithPreamble] at h; exact h.1

@[simp] theorem beginsWithPreamble_nil : beginsWithPreamble [] = false := by decide

end Sys2Proof.Machine
end

