-- ==== Sys2Proof/Laws/Exec.lean ====
section
/-! SUPPORT. What an instruction and a step can do, said once. -/

namespace Sys2Proof.Machine

/-- The state of an instruction's effect: the buffer's storage, the count and one more response; all else as before. -/
def answer (s : State) (buf : Memory) (count : Nat) (r : Response) : State :=
  { s with buf := buf, count := count, responses := s.responses ++ [r] }

@[simp] theorem answer_buf (s : State) (b : Memory) (n : Nat) (r : Response) : (answer s b n r).buf = b := rfl
@[simp] theorem answer_count (s : State) (b : Memory) (n : Nat) (r : Response) : (answer s b n r).count = n := rfl
@[simp] theorem answer_variant (s : State) (b : Memory) (n : Nat) (r : Response) :
    (answer s b n r).variant = s.variant := rfl
@[simp] theorem answer_maxChunk (s : State) (b : Memory) (n : Nat) (r : Response) :
    (answer s b n r).maxChunk = s.maxChunk := rfl
@[simp] theorem answer_requests (s : State) (b : Memory) (n : Nat) (r : Response) :
    (answer s b n r).requests = s.requests := rfl
@[simp] theorem answer_responses (s : State) (b : Memory) (n : Nat) (r : Response) :
    (answer s b n r).responses = s.responses ++ [r] := rfl

theorem emit_eq_answer (s : State) (r : Response) : emit s r = answer s s.buf s.count r := rfl

theorem emit_clearCount_eq_answer (s : State) (r : Response) : emit (clearCount s) r = answer s s.buf 0 r := rfl

theorem emit_accumulate_eq_answer (c : Bytes) (s : State) (r : Response) :
    emit (accumulate c s) r = answer s (storeChunk s.buf (keptCount c s) c) (keptCount c s + c.length) r := by
  rw [emit_eq_answer, answer, answer]
  simp only [accumulate_buf, accumulate_count, accumulate_responses]
  have h := accumulate_variant s c
  have h2 := accumulate_maxChunk s c
  have h3 := accumulate_requests s c
  cases hs : accumulate c s
  rw [hs] at h h2 h3
  simp only at h h2 h3
  subst h h2 h3
  rfl

theorem emit_clear_accumulate_eq_answer (c : Bytes) (s : State) (r : Response) :
    emit (clearCount (accumulate c s)) r = answer s (storeChunk s.buf (keptCount c s) c) 0 r := by
  have h := congrArg (fun t : State => { t with count := 0 }) (emit_accumulate_eq_answer c s r)
  exact h

/-! ## One lemma per meaning -/

section
variable {s : State} (hw : descriptorWf s.variant = true)
include hw

theorem execAppend_assembled {c : Bytes} (hc : c.length ≤ s.maxChunk.val) :
    exec (.append (.assembled c)) s = .next (answer s (storeChunk s.buf (keptCount c s) c) (keptCount c s + c.length)
      ⟨.ok, accumulateDiag c s, .ready (decide (Config.frameLen ≤ keptCount c s + c.length))⟩) := by
  rw [← emit_accumulate_eq_answer]
  show execAppend _ s = _
  unfold execAppend
  rw [onRequest_accepted hw (by simpa [chunkAccepted] using hc), replyOk_eq, ready_eq, accumulate_count]

theorem execIsReady_assembled :
    exec (.isReady (.assembled ())) s =
      .next (answer s s.buf s.count ⟨.ok, {}, .ready (decide (Config.frameLen ≤ s.count))⟩) := by
  show execIsReady _ s = _
  unfold execIsReady
  rw [onRequest_accepted hw rfl]
  rfl

theorem execTake_assembled :
    exec (.take (.assembled ())) s =
      if Config.frameLen ≤ s.count then .next (answer s s.buf 0 ⟨.ok, {}, .taken (some (readFrame s.buf))⟩)
      else .next (answer s s.buf s.count ⟨.ok, {}, .taken none⟩) := by
  show execTake _ s = _
  unfold execTake
  rw [onRequest_accepted hw rfl]
  by_cases h : Config.frameLen ≤ s.count
  · simp only [ready_eq, h, decide_true, if_true]; rfl
  · simp only [ready_eq, h, decide_false, if_false]; rfl

theorem execReset_assembled :
    exec (.reset (.assembled ())) s = .next (answer s s.buf 0 ⟨.ok, {}, .empty⟩) := by
  show execReset _ s = _
  unfold execReset
  rw [onRequest_accepted hw rfl]
  rfl

theorem execChecksum_assembled {a : ChecksumArgs} (ha : a.n.toNat ≤ a.s.length) :
    exec (.checksum (.assembled a)) s = .next (answer s s.buf s.count ⟨.ok, {}, .sum (checksum a.s a.n.toNat)⟩) := by
  show execChecksum _ s = _
  unfold execChecksum
  rw [onRequest_accepted hw (by simpa [checksumAccepted] using ha)]
  rfl

theorem execValidate_assembled (f : Bytes) :
    exec (.validate (.assembled f)) s = .next (answer s s.buf s.count ⟨.ok, {}, .verdict (validFrame f)⟩) := by
  show execValidate _ s = _
  unfold execValidate
  rw [onRequest_accepted hw rfl]
  rfl

theorem execDecode_assembled {f : Bytes} (hf : f.length = Config.frameLen) :
    exec (.decode (.assembled f)) s = .next (answer s s.buf s.count
      ⟨.ok, (decodeEvent s.variant f).1, .event (decodeEvent s.variant f).2⟩) := by
  show execDecode _ s = _
  unfold execDecode
  rw [onRequest_accepted hw (by simpa [wholeFrameAccepted] using hf)]
  rfl

theorem execIngest_assembled {c : Bytes} (hc : c.length ≤ s.maxChunk.val) :
    exec (.ingest (.assembled c)) s =
      if Config.frameLen ≤ keptCount c s + c.length then
        .next (answer s (storeChunk s.buf (keptCount c s) c) 0
          ⟨.ok, (accumulateDiag c s).union (ingestFrame s.variant (readFrame (storeChunk s.buf (keptCount c s) c))).1,
            .event (ingestFrame s.variant (readFrame (storeChunk s.buf (keptCount c s) c))).2⟩)
      else .next (answer s (storeChunk s.buf (keptCount c s) c) (keptCount c s + c.length)
        ⟨.ok, accumulateDiag c s, .event .noEvent⟩) := by
  show execIngest _ s = _
  unfold execIngest
  rw [onRequest_accepted hw (by simpa [chunkAccepted] using hc)]
  by_cases h : Config.frameLen ≤ keptCount c s + c.length
  · rw [if_pos h]
    simp only [ready_eq, accumulate_count, h, decide_true, if_true, replyOk_eq, accumulate_buf,
      emit_clear_accumulate_eq_answer]
  · rw [if_neg h]
    simp only [ready_eq, accumulate_count, h, decide_false, Bool.false_eq_true, if_false, replyOk_eq,
      emit_accumulate_eq_answer]

theorem execReservedOp_reserved {code : Byte} (hc : reservedCode code = true) (tail : Bytes) :
    exec (.reservedOp code tail) s = .next (answer s s.buf s.count ⟨.badOp, {}, .empty⟩) := by
  show execReservedOp code tail s = _
  simp [execReservedOp, hw, hc, emit_eq_answer]

/-- A frame-type row on a frame of its type. -/
theorem onFrameRow_of_type {f : Bytes} (hf : f.length = Config.frameLen) {row : FrameType}
    (ht : frameTypeOf (u8 f Config.typeOff) = row) (d : Decoded) :
    onFrameRow row f s d = .next (answer s s.buf s.count ⟨.ok, d.1, .event d.2⟩) := by
  unfold onFrameRow
  rw [onBuilt_of_wf hw, frameTypeByte?_of_length hf]
  have ht' : frameTypeOf (f.getD Config.typeOff 0#8) = row := ht
  simp only [Option.map_some, ht', if_true]
  rfl

/-! The operands an operation does not accept: ERR_OPERAND, and nothing changed (30_encoding.md R73). -/

theorem execAppend_malformed (tail : Bytes) :
    exec (.append (.malformed tail)) s = .next (answer s s.buf s.count ⟨.errOperand, {}, .empty⟩) := by
  show execAppend _ s = _
  unfold execAppend
  exact onRequest_malformed hw tail

theorem execIsReady_malformed (tail : Bytes) :
    exec (.isReady (.malformed tail)) s = .next (answer s s.buf s.count ⟨.errOperand, {}, .empty⟩) := by
  show execIsReady _ s = _
  unfold execIsReady
  exact onRequest_malformed hw tail

theorem execTake_malformed (tail : Bytes) :
    exec (.take (.malformed tail)) s = .next (answer s s.buf s.count ⟨.errOperand, {}, .empty⟩) := by
  show execTake _ s = _
  unfold execTake
  exact onRequest_malformed hw tail

theorem execReset_malformed (tail : Bytes) :
    exec (.reset (.malformed tail)) s = .next (answer s s.buf s.count ⟨.errOperand, {}, .empty⟩) := by
  show execReset _ s = _
  unfold execReset
  exact onRequest_malformed hw tail

theorem execChecksum_malformed (tail : Bytes) :
    exec (.checksum (.malformed tail)) s = .next (answer s s.buf s.count ⟨.errOperand, {}, .empty⟩) := by
  show execChecksum _ s = _
  unfold execChecksum
  exact onRequest_malformed hw tail

theorem execValidate_malformed (tail : Bytes) :
    exec (.validate (.malformed tail)) s = .next (answer s s.buf s.count ⟨.errOperand, {}, .empty⟩) := by
  show execValidate _ s = _
  unfold execValidate
  exact onRequest_malformed hw tail

theorem execDecode_malformed (tail : Bytes) :
    exec (.decode (.malformed tail)) s = .next (answer s s.buf s.count ⟨.errOperand, {}, .empty⟩) := by
  show execDecode _ s = _
  unfold execDecode
  exact onRequest_malformed hw tail

theorem execIngest_malformed (tail : Bytes) :
    exec (.ingest (.malformed tail)) s = .next (answer s s.buf s.count ⟨.errOperand, {}, .empty⟩) := by
  show execIngest _ s = _
  unfold execIngest
  exact onRequest_malformed hw tail

theorem execAppend_rejected {c : Bytes} (h : s.maxChunk.val < c.length) :
    exec (.append (.assembled c)) s = .next (answer s s.buf s.count ⟨.errOperand, {}, .empty⟩) := by
  show execAppend _ s = _
  unfold execAppend
  exact onRequest_rejected hw (by simpa [chunkAccepted] using h)

theorem execIngest_rejected {c : Bytes} (h : s.maxChunk.val < c.length) :
    exec (.ingest (.assembled c)) s = .next (answer s s.buf s.count ⟨.errOperand, {}, .empty⟩) := by
  show execIngest _ s = _
  unfold execIngest
  exact onRequest_rejected hw (by simpa [chunkAccepted] using h)

theorem execChecksum_rejected {a : ChecksumArgs} (h : a.s.length < a.n.toNat) :
    exec (.checksum (.assembled a)) s = .next (answer s s.buf s.count ⟨.errOperand, {}, .empty⟩) := by
  show execChecksum _ s = _
  unfold execChecksum
  exact onRequest_rejected hw (by simpa [checksumAccepted] using h)

theorem execDecode_rejected {f : Bytes} (h : f.length ≠ Config.frameLen) :
    exec (.decode (.assembled f)) s = .next (answer s s.buf s.count ⟨.errOperand, {}, .empty⟩) := by
  show execDecode _ s = _
  unfold execDecode
  exact onRequest_rejected hw (by simpa [wholeFrameAccepted] using h)

end

/-! ## Every instruction at once -/

/-- A decode raises at most UNKNOWN_TYPE. -/
theorem decodeEvent_flags (V : VariantDescriptor) (f : Bytes) :
    (decodeEvent V f).1.overflow = false ∧ (decodeEvent V f).1.resync = false ∧
      (decodeEvent V f).1.csumMismatch = false := by
  unfold decodeEvent
  split <;> exact ⟨rfl, rfl, rfl⟩

/-- The response `r` of an instruction `i` that changes nothing else: no flag of the accumulating steps, none at all and no
result unless it is OK, and UNKNOWN_TYPE only where a decode of a frame raises it (60_exceptions.md R201). -/
structure PureResponse (i : Instr) (r : Response) : Prop where
  overflow : r.diag.overflow = false
  resync : r.diag.resync = false
  csumMismatch : r.diag.csumMismatch = false
  not_ok : r.status ≠ .ok → r.diag = {} ∧ r.result = .empty
  unknownType : r.diag.unknownType = true → (∃ f, i = .decode (.assembled f)) ∨ ∃ f, i = .frameUnknown f

/-- Everything an instruction can do, if it answers a next state: APPEND's steps, INGEST's, a cleared count, or nothing
but a response. -/
theorem exec_next {i : Instr} {s t : State} (h : exec i s = .next t) :
    descriptorWf s.variant = true ∧
    ((∃ c, i = .append (.assembled c) ∧ c.length ≤ s.maxChunk.val ∧
        t = answer s (storeChunk s.buf (keptCount c s) c) (keptCount c s + c.length)
          ⟨.ok, accumulateDiag c s, .ready (decide (Config.frameLen ≤ keptCount c s + c.length))⟩) ∨
     (∃ c, i = .ingest (.assembled c) ∧ c.length ≤ s.maxChunk.val ∧
        ((keptCount c s + c.length < Config.frameLen ∧
            t = answer s (storeChunk s.buf (keptCount c s) c) (keptCount c s + c.length)
              ⟨.ok, accumulateDiag c s, .event .noEvent⟩) ∨
         (Config.frameLen ≤ keptCount c s + c.length ∧
            t = answer s (storeChunk s.buf (keptCount c s) c) 0
              ⟨.ok, (accumulateDiag c s).union
                  (ingestFrame s.variant (readFrame (storeChunk s.buf (keptCount c s) c))).1,
                .event (ingestFrame s.variant (readFrame (storeChunk s.buf (keptCount c s) c))).2⟩))) ∨
     (i = .take (.assembled ()) ∧ Config.frameLen ≤ s.count ∧
        t = answer s s.buf 0 ⟨.ok, {}, .taken (some (readFrame s.buf))⟩) ∨
     (i = .reset (.assembled ()) ∧ t = answer s s.buf 0 ⟨.ok, {}, .empty⟩) ∨
     (∃ r, t = answer s s.buf s.count r ∧ PureResponse i r)) := by
  have hw : descriptorWf s.variant = true := by
    cases i <;> exact (onBuilt_next h).1
  refine ⟨hw, ?_⟩
  have err : ∀ {u : State}, u = emit s ⟨.errOperand, {}, .empty⟩ →
      ∃ r, u = answer s s.buf s.count r ∧ PureResponse i r :=
    fun hu => ⟨⟨.errOperand, {}, .empty⟩, hu, rfl, rfl, rfl, fun _ => ⟨rfl, rfl⟩, nofun⟩
  have ok : ∀ {u : State} {d : Diag} {x : Result}, d.overflow = false → d.resync = false → d.csumMismatch = false →
      (d.unknownType = true → (∃ f, i = .decode (.assembled f)) ∨ ∃ f, i = .frameUnknown f) →
      u = emit s ⟨.ok, d, x⟩ → ∃ r, u = answer s s.buf s.count r ∧ PureResponse i r :=
    fun h1 h2 h3 h4 hu => ⟨_, hu, h1, h2, h3, fun hne => absurd rfl hne, h4⟩
  have row : ∀ {r : FrameType} {f : Bytes} {d : Decoded}, d.1.overflow = false → d.1.resync = false →
      d.1.csumMismatch = false →
      (d.1.unknownType = true → (∃ f, i = .decode (.assembled f)) ∨ ∃ f, i = .frameUnknown f) →
      onFrameRow r f s d = .next t → ∃ r, t = answer s s.buf s.count r ∧ PureResponse i r := by
    intro r f d h1 h2 h3 h4 hr
    obtain ⟨-, hr⟩ := onBuilt_next hr
    split at hr
    · cases hr; exact ok h1 h2 h3 h4 rfl
    · cases hr
  cases i with
  | append o =>
    obtain ⟨-, ⟨c, rfl, hc, -⟩ | hu⟩ := onRequest_next h
    · have hc' : c.length ≤ s.maxChunk.val := by simpa [chunkAccepted] using hc
      rw [execAppend_assembled hw hc'] at h
      cases h; exact .inl ⟨c, rfl, hc', rfl⟩
    · exact .inr (.inr (.inr (.inr (err hu))))
  | ingest o =>
    obtain ⟨-, ⟨c, rfl, hc, -⟩ | hu⟩ := onRequest_next h
    · have hc' : c.length ≤ s.maxChunk.val := by simpa [chunkAccepted] using hc
      rw [execIngest_assembled hw hc'] at h
      split at h
      · next hl => cases h; exact .inr (.inl ⟨c, rfl, hc', .inr ⟨hl, rfl⟩⟩)
      · next hl => cases h; exact .inr (.inl ⟨c, rfl, hc', .inl ⟨by omega, rfl⟩⟩)
    · exact .inr (.inr (.inr (.inr (err hu))))
  | take o =>
    obtain ⟨-, ⟨c, rfl, hc, -⟩ | hu⟩ := onRequest_next h
    · rw [execTake_assembled hw] at h
      split at h
      · next hl => cases h; exact .inr (.inr (.inl ⟨rfl, hl, rfl⟩))
      · cases h; exact .inr (.inr (.inr (.inr (ok rfl rfl rfl (fun h => by cases h) rfl))))
    · exact .inr (.inr (.inr (.inr (err hu))))
  | reset o =>
    obtain ⟨-, ⟨c, rfl, hc, -⟩ | hu⟩ := onRequest_next h
    · rw [execReset_assembled hw] at h
      cases h; exact .inr (.inr (.inr (.inl ⟨rfl, rfl⟩)))
    · exact .inr (.inr (.inr (.inr (err hu))))
  | isReady o =>
    obtain ⟨-, ⟨c, rfl, hc, hr⟩ | hu⟩ := onRequest_next h
    · cases hr; exact .inr (.inr (.inr (.inr (ok rfl rfl rfl (fun h => by cases h) rfl))))
    · exact .inr (.inr (.inr (.inr (err hu))))
  | checksum o =>
    obtain ⟨-, ⟨c, rfl, hc, hr⟩ | hu⟩ := onRequest_next h
    · cases hr; exact .inr (.inr (.inr (.inr (ok rfl rfl rfl (fun h => by cases h) rfl))))
    · exact .inr (.inr (.inr (.inr (err hu))))
  | validate o =>
    obtain ⟨-, ⟨c, rfl, hc, hr⟩ | hu⟩ := onRequest_next h
    · cases hr; exact .inr (.inr (.inr (.inr (ok rfl rfl rfl (fun h => by cases h) rfl))))
    · exact .inr (.inr (.inr (.inr (err hu))))
  | decode o =>
    obtain ⟨-, ⟨c, rfl, hc, hr⟩ | hu⟩ := onRequest_next h
    · cases hr
      obtain ⟨h1, h2, h3⟩ := decodeEvent_flags s.variant c
      exact .inr (.inr (.inr (.inr (ok h1 h2 h3 (fun _ => .inl ⟨c, rfl⟩) rfl))))
    · exact .inr (.inr (.inr (.inr (err hu))))
  | reservedOp code tail =>
    obtain ⟨-, hr⟩ := onBuilt_next h
    split at hr
    · cases hr
      exact .inr (.inr (.inr (.inr ⟨⟨.badOp, {}, .empty⟩, rfl, rfl, rfl, rfl, fun _ => ⟨rfl, rfl⟩, nofun⟩)))
    · cases hr
  | frameCellinfo f => exact .inr (.inr (.inr (.inr (row rfl rfl rfl (fun h => by cases h) h))))
  | frameDeviceinfo f => exact .inr (.inr (.inr (.inr (row rfl rfl rfl (fun h => by cases h) h))))
  | frameSettings f => exact .inr (.inr (.inr (.inr (row rfl rfl rfl (fun h => by cases h) h))))
  | frameUnknown f => exact .inr (.inr (.inr (.inr (row rfl rfl rfl (fun _ => .inr ⟨f, rfl⟩) h))))

/-- A step with a request waiting runs the oldest one. -/
theorem step_cons {s : State} {q : Request} {qs : List Request} (h : s.requests = q :: qs) :
    step s = exec (decodeRequest q) { s with requests := qs } := by
  simp [step, fetch, h]

/-- A step with no request waiting holds the state. -/
theorem step_nil {s : State} (h : s.requests = []) : step s = .next s := by
  simp [step, fetch, idle, h]

/-! ## The same, in the terms of the statements -/

/-- The preamble test as a proposition. -/
theorem beginsWithPreamble_eq (c : Bytes) : beginsWithPreamble c = decide (StartsWithPreamble c) := by
  unfold beginsWithPreamble StartsWithPreamble
  rw [← Bool.decide_and]
  congr 1
  apply propext
  refine ⟨fun h => h.2, fun h => ⟨?_, h⟩⟩
  have := congrArg List.length h
  simp at this
  omega

/-- The bytes that survive steps S1 and S2. -/
theorem keptCount_spec (c : Bytes) (s : State) :
    keptCount c s = if StartsWithPreamble c ∨ 320 < s.count then 0 else s.count := by
  unfold keptCount
  rw [beginsWithPreamble_eq]
  by_cases h : StartsWithPreamble c <;> by_cases h2 : 320 < s.count <;> simp [h, h2]

/-- The flags of APPEND's steps. -/
theorem accumulateDiag_spec (c : Bytes) (s : State) :
    accumulateDiag c s =
      { overflow := decide (320 < s.count),
        resync := decide (StartsWithPreamble c ∧ 0 < s.count ∧ s.count ≤ 320) } := by
  rw [accumulateDiag_eq, beginsWithPreamble_eq]
  simp [Bool.and_assoc, Config.bufMax]

/-- A taken frame raises at most one of CSUM_MISMATCH and UNKNOWN_TYPE. -/
theorem ingestFrame_flags (V : VariantDescriptor) (f : Bytes) :
    (ingestFrame V f).1.overflow = false ∧ (ingestFrame V f).1.resync = false ∧
      ¬ ((ingestFrame V f).1.csumMismatch = true ∧ (ingestFrame V f).1.unknownType = true) := by
  unfold ingestFrame
  split
  · obtain ⟨h1, h2, h3⟩ := decodeEvent_flags V f
    exact ⟨h1, h2, by simp [h3]⟩
  · exact ⟨rfl, rfl, by decide⟩

/-- Two whole frames with the same bytes are equal. -/
theorem frame_ext {f g : Bytes} (hf : f.length = 300) (hg : g.length = 300)
    (h : ∀ p, p < 300 → f.getD p 0#8 = g.getD p 0#8) : f = g := by
  apply List.ext_getElem (by omega)
  intro i h1 h2
  have := h i (by omega)
  simpa [List.getD_eq_getElem?_getD, h1, h2] using this

/-- VALIDATE of a whole frame. -/
theorem validFrame_of_length {f : Bytes} (h : f.length = 300) :
    validFrame f = decide (((f.take 299).map BitVec.toNat).sum % 256 = (f.getD 299 0#8).toNat) := by
  have : f = f.take 299 ++ [f.getD 299 0#8] := by
    apply List.ext_getElem
    · simp [h]
    · intro i h1 h2
      by_cases hi : i < 299
      · rw [List.getElem_append_left (by simp; omega)]; simp
      · have : i = 299 := by omega
        subst this
        rw [List.getElem_append_right (by simp [h])]; simp [h]
  have hv := validFrame_append (f.take 299) (f.getD 299 0#8)
  rw [← this] at hv
  exact hv

theorem decodeRequest_append {c : Bytes} (h : c.length < 65536) :
    decodeRequest (appendRequest c) = .append (.assembled c) := by
  show Instr.append (assembleSeq (encodeSeq (.assembled c))) = _
  rw [assembleSeq_encode h]

theorem decodeRequest_ingest {c : Bytes} (h : c.length < 65536) :
    decodeRequest (ingestRequest c) = .ingest (.assembled c) := by
  show Instr.ingest (assembleSeq (encodeSeq (.assembled c))) = _
  rw [assembleSeq_encode h]

theorem decodeRequest_reserved {q : Request} (h : ReservedRequest q) : decodeRequest q = .reservedOp q.op q.tail := by
  unfold ReservedRequest at h
  unfold decodeRequest
  split <;> first | omega | rfl

/-- The numbers the statements name are what the extractor reads. -/
theorem u16le_num16 (f : Bytes) (o : Nat) : (u16le f o).toNat = num16 f o := by
  rw [u16le_toNat]; simp only [num16, u8]

theorem u32le_num32 (f : Bytes) (o : Nat) : (u32le f o).toNat = num32 f o := by
  rw [u32le_toNat]; simp only [num32, u8]

end Sys2Proof.Machine
end

