-- ==== Sys2Proof/Laws/PerInstr.lean ====
section
/-! SUPPORT. Facts stated for each constructor of Instr. Family EncodedLength: the length of a well-formed instruction's
bytes is what 30_encoding.md R73 (requests) and R60 (frames) say. -/

namespace Sys2Proof.Laws.EncodedLength

/-- `|q|` of a well-formed request (30_encoding.md R73), or a frame's length (R60). -/
def bytesOf : Instr → Nat
  | .append (.assembled c) => 3 + c.length
  | .ingest (.assembled c) => 3 + c.length
  | .validate (.assembled f) => 3 + f.length
  | .decode (.assembled _) => 3 + Config.frameLen
  | .checksum (.assembled a) => 5 + a.s.length
  | .reservedOp _ tail => 1 + tail.length
  | .frameCellinfo _ | .frameDeviceinfo _ | .frameSettings _ | .frameUnknown _ => Config.frameLen
  | _ => 1

/-- A well-formed instruction's bytes have the length its row gives. -/
def Statement (i : Instr) : Prop := ∀ maxChunk, i.wf maxChunk = true → (encode i).length = bytesOf i

theorem append (c : Operand Bytes) : Statement (.append c) := by
  intro m h
  cases c with
  | assembled c => simp [encode, encodeSeq, encodeLen, bytesOf]; omega
  | malformed t => simp [Instr.wf, chunkWf] at h

theorem isReady (o : Operand Unit) : Statement (.isReady o) := by
  intro m h
  cases o with
  | assembled c => rfl
  | malformed t => simp [Instr.wf, noOperandWf] at h

theorem take (o : Operand Unit) : Statement (.take o) := by
  intro m h
  cases o with
  | assembled c => rfl
  | malformed t => simp [Instr.wf, noOperandWf] at h

theorem reset (o : Operand Unit) : Statement (.reset o) := by
  intro m h
  cases o with
  | assembled c => rfl
  | malformed t => simp [Instr.wf, noOperandWf] at h

theorem checksum (a : Operand ChecksumArgs) : Statement (.checksum a) := by
  intro m h
  cases a with
  | assembled a => simp [encode, encodeChecksum, encodeLen, bytesOf]; omega
  | malformed t => simp [Instr.wf, checksumWf] at h

theorem validate (f : Operand Bytes) : Statement (.validate f) := by
  intro m h
  cases f with
  | assembled f => simp [encode, encodeSeq, encodeLen, bytesOf]; omega
  | malformed t => simp [Instr.wf, anyFrameWf] at h

theorem decode (f : Operand Bytes) : Statement (.decode f) := by
  intro m h
  cases f with
  | assembled f =>
    have hf : f.length = Config.frameLen := by simpa [Instr.wf, wholeFrameWf] using h
    simp [encode, encodeSeq, encodeLen, bytesOf, hf]; omega
  | malformed t => simp [Instr.wf, wholeFrameWf] at h

theorem ingest (c : Operand Bytes) : Statement (.ingest c) := by
  intro m h
  cases c with
  | assembled c => simp [encode, encodeSeq, encodeLen, bytesOf]; omega
  | malformed t => simp [Instr.wf, chunkWf] at h

theorem reservedOp (code : Byte) (tail : Bytes) : Statement (.reservedOp code tail) := by
  intro m _
  simp [encode, bytesOf]; omega

/-- A frame whose type byte can be read is a whole frame. -/
theorem length_of_type {f : Bytes} {t : Byte} (h : frameTypeByte? f = some t) : f.length = Config.frameLen := by
  unfold frameTypeByte? at h
  split at h
  · assumption
  · cases h

theorem frameCellinfo (f : Bytes) : Statement (.frameCellinfo f) := by
  intro m h
  exact length_of_type (of_decide_eq_true h)

theorem frameDeviceinfo (f : Bytes) : Statement (.frameDeviceinfo f) := by
  intro m h
  exact length_of_type (of_decide_eq_true h)

theorem frameSettings (f : Bytes) : Statement (.frameSettings f) := by
  intro m h
  exact length_of_type (of_decide_eq_true h)

theorem frameUnknown (f : Bytes) : Statement (.frameUnknown f) := by
  intro m h
  cases ht : frameTypeByte? f with
  | none => simp [Instr.wf, ht] at h
  | some t => exact length_of_type ht

end Sys2Proof.Laws.EncodedLength
end

