-- ==== Sys2Proof/Laws/Run.lean ====
section
/-! SUPPORT. Runs of the machine, one step at a time. -/

namespace Sys2Proof.Machine

/-- A run of any core unfolds by its first step. -/
theorem core_run_succ_of_next {M : Host.Core} {n : Nat} {s u : M.State} (h : M.step s = .next u) :
    M.run (n + 1) s = M.run n u := by simp only [Host.Core.run, h]

/-- A run that answers a next state took a first step. -/
theorem core_run_succ_next {M : Host.Core} {n : Nat} {s t : M.State} (h : M.run (n + 1) s = .next t) :
    ∃ u, M.step s = .next u ∧ M.run n u = .next t := by
  simp only [Host.Core.run] at h
  split at h
  · next u hu => exact ⟨u, hu, h⟩
  · cases h
  · cases h

/-- A run of the block after a first step that is known. -/
theorem run_succ_of_step {n : Nat} {s u : State} (h : step s = .next u) :
    Host.Core.run Sys2Proof.core (n + 1) s = Host.Core.run Sys2Proof.core n u :=
  core_run_succ_of_next (M := Sys2Proof.core) h

/-- The first step of a run of the block. -/
theorem step_of_run_succ {n : Nat} {s t : State} (h : Host.Core.run Sys2Proof.core (n + 1) s = .next t) :
    ∃ u : State, step s = .next u ∧ Host.Core.run Sys2Proof.core n u = .next t :=
  core_run_succ_next (M := Sys2Proof.core) h

/-- A run of `n + m` steps is a run of `n` steps and then one of `m`. -/
theorem run_add (m : Nat) {n : Nat} {s t : State} (h : Host.Core.run Sys2Proof.core n s = .next t) :
    Host.Core.run Sys2Proof.core (n + m) s = Host.Core.run Sys2Proof.core m t := by
  induction n generalizing s with
  | zero => cases h; rw [Nat.zero_add]
  | succ n ih =>
    obtain ⟨u, h1, h2⟩ := step_of_run_succ h
    rw [Nat.add_right_comm, run_succ_of_step h1]
    exact ih h2

end Sys2Proof.Machine
end

