-- ==== Sys2Proof/Laws/Serialise.lean ====
section
/-! SUPPORT. The byte form of a record, read back field by field. -/

namespace Sys2Proof.Machine

theorem num16_bytes16le (h : Half) (rest : Bytes) : num16 (bytes16le h ++ rest) 0 = h.toNat := by
  have := h.isLt
  simp [num16, bytes16le]
  omega

theorem num32_bytes32le (h : Word) (rest : Bytes) : num32 (bytes32le h ++ rest) 0 = h.toNat := by
  have := h.isLt
  simp [num32, bytes32le]
  omega

theorem num16_drop (f : Bytes) (k o : Nat) : num16 (f.drop k) o = num16 f (k + o) := by
  simp only [num16, List.getD_eq_getElem?_getD, List.getElem?_drop]; rw [Nat.add_assoc]

theorem num32_drop (f : Bytes) (k o : Nat) : num32 (f.drop k) o = num32 f (k + o) := by
  simp only [num32, List.getD_eq_getElem?_getD, List.getElem?_drop, Nat.add_assoc]

theorem getD_drop_eq (f : Bytes) (k o : Nat) : (f.drop k).getD o 0#8 = f.getD (k + o) 0#8 := by
  simp only [List.getD_eq_getElem?_getD, List.getElem?_drop]

theorem voltages_length (l : List Half) : (l.flatMap bytes16le).length = 2 * l.length := by
  induction l with
  | nil => rfl
  | cons a l ih => simp [bytes16le] at ih ⊢; omega

theorem voltages_num16 (l : List Half) (rest : Bytes) (i : Nat) (h : i < l.length) :
    num16 (l.flatMap bytes16le ++ rest) (2 * i) = (l.getD i 0#16).toNat := by
  induction l generalizing i with
  | nil => simp at h
  | cons a l ih =>
    cases i with
    | zero => rw [List.flatMap_cons, List.append_assoc]; exact num16_bytes16le a _
    | succ i =>
      have := ih i (by simpa using h)
      rw [List.flatMap_cons, List.append_assoc]
      have e : 2 * (i + 1) = 2 + 2 * i := by omega
      rw [e, ← num16_drop]
      have : (bytes16le a ++ (l.flatMap bytes16le ++ rest)).drop 2 = l.flatMap bytes16le ++ rest := rfl
      rw [this]; simpa using ih i (by simpa using h)

theorem balBitmap_testBit (l : List Bool) (i : Nat) (hi : i < 32) :
    (balBitmap l).toNat.testBit i = l.getD i false := by
  rw [BitVec.testBit_toNat]
  unfold balBitmap
  simp [BitVec.getLsbD_ofBoolListLE, hi]

theorem enFlags_toNat (r : CellInfo) :
    (enFlags r).toNat = r.chgEn.toNat + 2 * r.disEn.toNat + 4 * r.heatEn.toNat := by
  unfold enFlags
  generalize r.chgEn = a; generalize r.disEn = b; generalize r.heatEn = c
  revert a b c; decide

theorem half_bytes (h : Half) : (h.extractLsb' 0 8).toNat + 256 * (h.extractLsb' 8 8).toNat = h.toNat := by
  have := h.isLt
  simp; omega

theorem word_bytes (h : Word) : (h.extractLsb' 0 8).toNat + 2 ^ 8 * (h.extractLsb' 8 8).toNat +
    2 ^ 16 * (h.extractLsb' 16 8).toNat + 2 ^ 24 * (h.extractLsb' 24 8).toNat = h.toNat := by
  have := h.isLt
  simp; omega

/-- The fields after the cell voltages, byte by byte. -/
theorem cellInfoTail_eq (r : CellInfo) : cellInfoTail r = [
    r.avgMv.extractLsb' 0 8, r.avgMv.extractLsb' 8 8, r.deltaMv.extractLsb' 0 8, r.deltaMv.extractLsb' 8 8, r.maxIdx,
    r.minIdx, r.balStateRaw, r.balDisIdx, r.balChgIdx, (balBitmap r.balActive).extractLsb' 0 8,
    (balBitmap r.balActive).extractLsb' 8 8, (balBitmap r.balActive).extractLsb' 16 8, (balBitmap r.balActive).extractLsb' 24 8, r.balCurRaw.extractLsb' 0 8, r.balCurRaw.extractLsb' 8 8,
    r.packMvRaw.extractLsb' 0 8, r.packMvRaw.extractLsb' 8 8, r.packMvRaw.extractLsb' 16 8, r.packMvRaw.extractLsb' 24 8, r.curMaRaw.extractLsb' 0 8,
    r.curMaRaw.extractLsb' 8 8, r.curMaRaw.extractLsb' 16 8, r.curMaRaw.extractLsb' 24 8, r.t1Raw.extractLsb' 0 8, r.t1Raw.extractLsb' 8 8,
    r.t2Raw.extractLsb' 0 8, r.t2Raw.extractLsb' 8 8, r.tmosRaw.extractLsb' 0 8, r.tmosRaw.extractLsb' 8 8, r.faultMask.extractLsb' 0 8,
    r.faultMask.extractLsb' 8 8, r.soc, r.remcapRaw.extractLsb' 0 8, r.remcapRaw.extractLsb' 8 8, r.remcapRaw.extractLsb' 16 8,
    r.remcapRaw.extractLsb' 24 8, r.totcapRaw.extractLsb' 0 8, r.totcapRaw.extractLsb' 8 8, r.totcapRaw.extractLsb' 16 8, r.totcapRaw.extractLsb' 24 8,
    r.cyccnt.extractLsb' 0 8, r.cyccnt.extractLsb' 8 8, r.cyccnt.extractLsb' 16 8, r.cyccnt.extractLsb' 24 8, r.cyccapRaw.extractLsb' 0 8,
    r.cyccapRaw.extractLsb' 8 8, r.cyccapRaw.extractLsb' 16 8, r.cyccapRaw.extractLsb' 24 8, r.runtimeS.extractLsb' 0 8, r.runtimeS.extractLsb' 8 8,
    r.runtimeS.extractLsb' 16 8, r.runtimeS.extractLsb' 24 8, enFlags r, r.heatCurRaw.extractLsb' 0 8, r.heatCurRaw.extractLsb' 8 8] := by
  simp only [cellInfoTail, bytes16le, bytes32le, List.cons_append, List.nil_append]

theorem cellInfoTail_num16_at_0 (r : CellInfo) : num16 (cellInfoTail r) 0 = r.avgMv.toNat := by
  rw [cellInfoTail_eq, num16, ← half_bytes r.avgMv]
  simp only [List.getD_cons_succ, List.getD_cons_zero]

theorem cellInfoTail_num16_at_2 (r : CellInfo) : num16 (cellInfoTail r) 2 = r.deltaMv.toNat := by
  rw [cellInfoTail_eq, num16, ← half_bytes r.deltaMv]
  simp only [List.getD_cons_succ, List.getD_cons_zero]

theorem cellInfoTail_num32_at_9 (r : CellInfo) : num32 (cellInfoTail r) 9 = (balBitmap r.balActive).toNat := by
  rw [cellInfoTail_eq, num32, ← word_bytes (balBitmap r.balActive)]
  simp only [List.getD_cons_succ, List.getD_cons_zero]

theorem cellInfoTail_num16_at_13 (r : CellInfo) : num16 (cellInfoTail r) 13 = r.balCurRaw.toNat := by
  rw [cellInfoTail_eq, num16, ← half_bytes r.balCurRaw]
  simp only [List.getD_cons_succ, List.getD_cons_zero]

theorem cellInfoTail_num32_at_15 (r : CellInfo) : num32 (cellInfoTail r) 15 = r.packMvRaw.toNat := by
  rw [cellInfoTail_eq, num32, ← word_bytes r.packMvRaw]
  simp only [List.getD_cons_succ, List.getD_cons_zero]

theorem cellInfoTail_num32_at_19 (r : CellInfo) : num32 (cellInfoTail r) 19 = r.curMaRaw.toNat := by
  rw [cellInfoTail_eq, num32, ← word_bytes r.curMaRaw]
  simp only [List.getD_cons_succ, List.getD_cons_zero]

theorem cellInfoTail_num16_at_23 (r : CellInfo) : num16 (cellInfoTail r) 23 = r.t1Raw.toNat := by
  rw [cellInfoTail_eq, num16, ← half_bytes r.t1Raw]
  simp only [List.getD_cons_succ, List.getD_cons_zero]

theorem cellInfoTail_num16_at_25 (r : CellInfo) : num16 (cellInfoTail r) 25 = r.t2Raw.toNat := by
  rw [cellInfoTail_eq, num16, ← half_bytes r.t2Raw]
  simp only [List.getD_cons_succ, List.getD_cons_zero]

theorem cellInfoTail_num16_at_27 (r : CellInfo) : num16 (cellInfoTail r) 27 = r.tmosRaw.toNat := by
  rw [cellInfoTail_eq, num16, ← half_bytes r.tmosRaw]
  simp only [List.getD_cons_succ, List.getD_cons_zero]

theorem cellInfoTail_num16_at_29 (r : CellInfo) : num16 (cellInfoTail r) 29 = r.faultMask.toNat := by
  rw [cellInfoTail_eq, num16, ← half_bytes r.faultMask]
  simp only [List.getD_cons_succ, List.getD_cons_zero]

theorem cellInfoTail_num32_at_32 (r : CellInfo) : num32 (cellInfoTail r) 32 = r.remcapRaw.toNat := by
  rw [cellInfoTail_eq, num32, ← word_bytes r.remcapRaw]
  simp only [List.getD_cons_succ, List.getD_cons_zero]

theorem cellInfoTail_num32_at_36 (r : CellInfo) : num32 (cellInfoTail r) 36 = r.totcapRaw.toNat := by
  rw [cellInfoTail_eq, num32, ← word_bytes r.totcapRaw]
  simp only [List.getD_cons_succ, List.getD_cons_zero]

theorem cellInfoTail_num32_at_40 (r : CellInfo) : num32 (cellInfoTail r) 40 = r.cyccnt.toNat := by
  rw [cellInfoTail_eq, num32, ← word_bytes r.cyccnt]
  simp only [List.getD_cons_succ, List.getD_cons_zero]

theorem cellInfoTail_num32_at_44 (r : CellInfo) : num32 (cellInfoTail r) 44 = r.cyccapRaw.toNat := by
  rw [cellInfoTail_eq, num32, ← word_bytes r.cyccapRaw]
  simp only [List.getD_cons_succ, List.getD_cons_zero]

theorem cellInfoTail_num32_at_48 (r : CellInfo) : num32 (cellInfoTail r) 48 = r.runtimeS.toNat := by
  rw [cellInfoTail_eq, num32, ← word_bytes r.runtimeS]
  simp only [List.getD_cons_succ, List.getD_cons_zero]

theorem cellInfoTail_num16_at_53 (r : CellInfo) : num16 (cellInfoTail r) 53 = r.heatCurRaw.toNat := by
  rw [cellInfoTail_eq, num16, ← half_bytes r.heatCurRaw]
  simp only [List.getD_cons_succ, List.getD_cons_zero]

theorem cellInfoTail_byte_at_4 (r : CellInfo) : (cellInfoTail r).getD 4 0#8 = r.maxIdx := by
  rw [cellInfoTail_eq]
  simp only [List.getD_cons_succ, List.getD_cons_zero]

theorem cellInfoTail_byte_at_5 (r : CellInfo) : (cellInfoTail r).getD 5 0#8 = r.minIdx := by
  rw [cellInfoTail_eq]
  simp only [List.getD_cons_succ, List.getD_cons_zero]

theorem cellInfoTail_byte_at_6 (r : CellInfo) : (cellInfoTail r).getD 6 0#8 = r.balStateRaw := by
  rw [cellInfoTail_eq]
  simp only [List.getD_cons_succ, List.getD_cons_zero]

theorem cellInfoTail_byte_at_7 (r : CellInfo) : (cellInfoTail r).getD 7 0#8 = r.balDisIdx := by
  rw [cellInfoTail_eq]
  simp only [List.getD_cons_succ, List.getD_cons_zero]

theorem cellInfoTail_byte_at_8 (r : CellInfo) : (cellInfoTail r).getD 8 0#8 = r.balChgIdx := by
  rw [cellInfoTail_eq]
  simp only [List.getD_cons_succ, List.getD_cons_zero]

theorem cellInfoTail_byte_at_31 (r : CellInfo) : (cellInfoTail r).getD 31 0#8 = r.soc := by
  rw [cellInfoTail_eq]
  simp only [List.getD_cons_succ, List.getD_cons_zero]

theorem cellInfoTail_byte_at_52 (r : CellInfo) : (cellInfoTail r).getD 52 0#8 = enFlags r := by
  rw [cellInfoTail_eq]
  simp only [List.getD_cons_succ, List.getD_cons_zero]

theorem cellInfoTail_length (r : CellInfo) : (cellInfoTail r).length = 55 := by rw [cellInfoTail_eq]; simp only [List.length_cons, List.length_nil]

end Sys2Proof.Machine
end

