-- ==== Sys2Proof/Tests/Slice0.lean ====
section
/-! SUPPORT. The model's own tests, and a witness for the hypotheses of each statement. Expected values are those of
95_test_vectors.md (the vector is named) or are worked out from the rule named; none is a result of the model. -/

namespace Sys2Proof.Tests

open Sys2Proof Sys2Proof.Machine

set_option Elab.async false

/-! ## Helpers -/

/-- A block with the descriptor TD and `MAX_CHUNK = 512`, as the vectors assume. -/
def blockAt (count : Nat) (buf : Memory) (qs : List Request) : State :=
  { State.reset with buf := buf, count := count, requests := qs }

/-- The bytes of the last response a step emitted, and the count after it. -/
def seen (o : Host.Outcome State Fault Refusal) : Option (Nat × Option Bytes) :=
  match o with
  | .next t => some (t.count, t.responses.getLast?.map Response.toBytes)
  | _ => none

/-- A step on one raw request. -/
def stepOn (count : Nat) (buf : Memory) (op : Byte) (tail : Bytes) : Option (Nat × Option Bytes) :=
  seen (step (blockAt count buf [⟨op, tail⟩]))

/-- A frame with the preamble, type byte `t`, checksum byte `cs` and the listed bytes; all others zero. -/
def frameOf (t cs : Byte) (l : List (Nat × Byte)) : Bytes :=
  (List.range 300).map fun i =>
    ((l ++ [(0, 0x55), (1, 0xAA), (2, 0xEB), (3, 0x90), (4, t), (299, cs)]).lookup i).getD 0

/-- X1 of 95_test_vectors.md 2.2. -/
def frameX1 : Bytes := frameOf 0x02 0x3A (
  [(6, 0xE4), (7, 0x0C), (8, 0xE5), (9, 0x0C), (10, 0xE3), (11, 0x0C), (12, 0xE6), (13, 0x0C),
   (70, 0x0F), (74, 0xE4), (75, 0x0C), (76, 0x03), (78, 0x03), (79, 0x02)] ++
  [(144, 0x2C), (145, 0x01), (150, 0x92), (151, 0x33), (158, 0x24), (159, 0xFA), (160, 0xFF), (161, 0xFF),
   (162, 0xFD), (164, 0xCE), (165, 0xFF), (166, 0x80), (167, 0x01), (170, 0xEC), (171, 0xFF), (172, 0x01),
   (173, 0x57)] ++
  [(174, 0x50), (175, 0xC3), (178, 0xA0), (179, 0x86), (180, 0x01), (182, 0x0C), (186, 0xC0), (187, 0x27),
   (188, 0x09), (194, 0x10), (195, 0x0E), (198, 0x01), (200, 0x02), (205, 0x02)])

/-- REC_X1 of 95_test_vectors.md 2.3. -/
def recX1 : Bytes :=
  [0x04, 0xE4, 0x0C, 0xE5, 0x0C, 0xE3, 0x0C, 0xE6, 0x0C, 0xE4, 0x0C, 0x03, 0x00, 0x03, 0x02, 0x01] ++
  [0x00, 0x02, 0x04, 0x00, 0x00, 0x00, 0xEC, 0xFF, 0x92, 0x33, 0x00, 0x00, 0x24, 0xFA, 0xFF, 0xFF] ++
  [0xFD, 0x00, 0xCE, 0xFF, 0x2C, 0x01, 0x01, 0x80, 0x57, 0x50, 0xC3, 0x00, 0x00, 0xA0, 0x86, 0x01] ++
  [0x00, 0x0C, 0x00, 0x00, 0x00, 0xC0, 0x27, 0x09, 0x00, 0x10, 0x0E, 0x00, 0x00, 0x05, 0x00, 0x00]

/-- X0, D1, S1 and U7 of 95_test_vectors.md 2.2. -/
def frameX0 : Bytes := frameOf 0x02 0x7C []
def frameD1 : Bytes := frameOf 0x03 0xD1
  [(6, 0x47), (7, 0x53), (8, 0x4D), (9, 0x2D), (10, 0x54), (11, 0x45), (12, 0x53), (13, 0x54)]
def frameS1 : Bytes := frameOf 0x01 0x7B []
def frameU7 : Bytes := frameOf 0x07 0x81 []

theorem frameOf_length (t cs : Byte) (l : List (Nat × Byte)) : (frameOf t cs l).length = 300 := by simp [frameOf]

theorem td_wf : descriptorWf Config.resetVariant = true := by decide +kernel

/-- TD with an empty vendor window, which fails WF_VEND. -/
def badDescriptor : VariantDescriptor := { Config.resetVariant with vendLen := 0 }

/-! ## WellFormed refuses what is not well formed -/

theorem test_wf_append_above_max_chunk : Instr.wf 2 (.append (.assembled [1, 2, 3])) = false := by decide
theorem test_wf_append_at_max_chunk : Instr.wf 3 (.append (.assembled [1, 2, 3])) = true := by decide
theorem test_wf_append_malformed : Instr.wf 9 (.append (.malformed [5, 0, 0xAA])) = false := by decide
theorem test_wf_is_ready_malformed : Instr.wf 9 (.isReady (.malformed [0])) = false := by decide
theorem test_wf_take_malformed : Instr.wf 9 (.take (.malformed [0])) = false := by decide
theorem test_wf_reset_malformed : Instr.wf 9 (.reset (.malformed [0])) = false := by decide
theorem test_wf_checksum_n_above_len : Instr.wf 9 (.checksum (.assembled ⟨2, [0xAA]⟩)) = false := by decide
theorem test_wf_checksum_malformed : Instr.wf 9 (.checksum (.malformed [1, 0, 1, 0])) = false := by decide
theorem test_wf_checksum_too_long (l : Bytes) (h : l.length = 65536) :
    Instr.wf 9 (.checksum (.assembled ⟨0, l⟩)) = false := by simp [Instr.wf, checksumWf, h]
theorem test_wf_validate_too_long (l : Bytes) (h : l.length = 65536) :
    Instr.wf 9 (.validate (.assembled l)) = false := by simp [Instr.wf, anyFrameWf, h]
theorem test_wf_validate_malformed : Instr.wf 9 (.validate (.malformed [0])) = false := by decide
theorem test_wf_decode_short : Instr.wf 9 (.decode (.assembled [0x55])) = false := by decide
theorem test_wf_decode_malformed : Instr.wf 9 (.decode (.malformed [])) = false := by decide
theorem test_wf_ingest_above_max_chunk : Instr.wf 0 (.ingest (.assembled [1])) = false := by decide
theorem test_wf_ingest_malformed : Instr.wf 9 (.ingest (.malformed [1])) = false := by decide
theorem test_wf_reserved_op_defined_code : Instr.wf 9 (.reservedOp 0x08 []) = false := by decide
theorem test_wf_cellinfo_wrong_type : Instr.wf 9 (.frameCellinfo frameD1) = false := by decide +kernel
theorem test_wf_cellinfo_short : Instr.wf 9 (.frameCellinfo [0x55, 0xAA, 0xEB, 0x90, 0x02]) = false := by decide
theorem test_wf_deviceinfo_wrong_type : Instr.wf 9 (.frameDeviceinfo frameX0) = false := by decide +kernel
theorem test_wf_settings_wrong_type : Instr.wf 9 (.frameSettings frameU7) = false := by decide +kernel
theorem test_wf_unknown_known_type : Instr.wf 9 (.frameUnknown frameS1) = false := by decide +kernel
theorem test_wf_unknown_short : Instr.wf 9 (.frameUnknown []) = false := by decide

/-! ## Decoding the words of the spec (30_encoding.md R66, R71-R73) -/

theorem test_decode_append : decodeBytes [0b00000001, 0b00000010, 0b00000000, 0xAA, 0x55] =
    .ok (.append (.assembled [0xAA, 0x55])) := by decide
theorem test_decode_is_ready : decodeBytes [0b00000010] = .ok (.isReady (.assembled ())) := by decide
theorem test_decode_take : decodeBytes [0b00000011] = .ok (.take (.assembled ())) := by decide
theorem test_decode_reset : decodeBytes [0b00000100] = .ok (.reset (.assembled ())) := by decide
theorem test_decode_checksum : decodeBytes [0b00000101, 0x03, 0x00, 0x02, 0x00, 0x01, 0x02, 0x03] =
    .ok (.checksum (.assembled ⟨2, [0x01, 0x02, 0x03]⟩)) := by decide
theorem test_decode_validate : decodeBytes [0b00000110, 0x02, 0x00, 0x07, 0x07] =
    .ok (.validate (.assembled [0x07, 0x07])) := by decide
theorem test_decode_decode : decodeBytes ([0b00000111, 0x2C, 0x01] ++ frameX0) = .ok (.decode (.assembled frameX0)) := by
  decide +kernel
theorem test_decode_ingest : decodeBytes [0b00001000, 0x01, 0x00, 0x90] = .ok (.ingest (.assembled [0x90])) := by decide
theorem test_decode_reserved_00 : decodeBytes [0b00000000] = .ok (.reservedOp 0x00 []) := by decide
theorem test_decode_reserved_09 : decodeBytes [0b00001001, 0x05, 0x00] = .ok (.reservedOp 0x09 [0x05, 0x00]) := by decide
theorem test_decode_reserved_ff : decodeBytes [0b11111111, 0x00, 0x00] = .ok (.reservedOp 0xFF [0x00, 0x00]) := by decide
theorem test_decode_cellinfo : decodeFrame frameX1 = .ok (.frameCellinfo frameX1) := by decide +kernel
theorem test_decode_deviceinfo : decodeFrame frameD1 = .ok (.frameDeviceinfo frameD1) := by decide +kernel
theorem test_decode_settings : decodeFrame frameS1 = .ok (.frameSettings frameS1) := by decide +kernel
theorem test_decode_unknown : decodeFrame frameU7 = .ok (.frameUnknown frameU7) := by decide +kernel
theorem test_decode_short_frame : decodeFrame [0x55, 0xAA, 0xEB, 0x90, 0x02] = .error .frameLength := by decide
theorem test_decode_no_byte : decodeBytes [] = .error .emptyRequest := by decide

/-- A length field low byte first: `len = 0x0102` is `02 01`, so four bytes after the code are too few. -/
theorem test_decode_len_is_little_endian : decodeBytes [0x01, 0x02, 0x01, 0xAA, 0xBB] =
    .ok (.append (.malformed [0x02, 0x01, 0xAA, 0xBB])) := by decide

theorem test_table_word_8_bits : decodeTableWord 8 0x02 = some (.isReady (.assembled ())) := by decide
theorem test_table_word_operands_zero : decodeTableWord 8 0x05 = some (.checksum (.assembled ⟨0, []⟩)) := by decide
theorem test_table_word_decode_of_zeros :
    decodeTableWord 24 0x012C07 = some (.decode (.assembled (List.replicate 300 0))) := by decide +kernel
theorem test_encode_checksum : encode (.checksum (.assembled ⟨2, [0x01, 0x02, 0x03]⟩)) =
    [0x05, 0x03, 0x00, 0x02, 0x00, 0x01, 0x02, 0x03] := by decide
theorem test_encode_append : encode (.append (.assembled [0xAA])) = [0x01, 0x01, 0x00, 0xAA] := by decide
theorem test_step_runs_table_word : seen (step (State.reset.withFetchWord 8 0x02)) = some (0, some [0x00, 0x00, 0x00]) := by
  decide

/-! ## Instructions, on vectors of 95_test_vectors.md -/

/-- V-APP5: a chunk with the preamble discards 100 bytes, RESYNC. -/
theorem test_append_resync :
    stepOn 100 [] 0x01 [0x05, 0x00, 0x55, 0xAA, 0xEB, 0x90, 0x02] = some (5, some [0x00, 0x02, 0x00]) := by decide +kernel
/-- V-APP11: 321 > 320, cleared before the chunk is added, OVERFLOW. -/
theorem test_append_overflow : stepOn 321 [] 0x01 [0x01, 0x00, 0x01] = some (1, some [0x00, 0x01, 0x00]) := by
  decide +kernel
/-- V-RDY1. -/
theorem test_is_ready_299 : stepOn 299 [] 0x02 [] = some (299, some [0x00, 0x00, 0x00]) := by decide +kernel
/-- V-RDY2. -/
theorem test_is_ready_300 : stepOn 300 [] 0x02 [] = some (300, some [0x00, 0x00, 0x01]) := by decide +kernel
/-- R106: the taken frame is `buf[0..299]`; 310 bytes were counted. -/
theorem test_take_ready : stepOn 310 [(0, 0x55), (299, 0x7F)] 0x03 [] =
    some (0, some (0x00 :: 0x00 :: 0x01 :: 0x55 :: List.replicate 298 0x00 ++ [0x7F])) := by decide +kernel
/-- V-TAK2. -/
theorem test_take_not_ready : stepOn 5 [] 0x03 [] = some (5, some [0x00, 0x00, 0x00]) := by decide +kernel
/-- V-RST1. -/
theorem test_reset_clears : stepOn 150 [(0, 0x55)] 0x04 [] = some (0, some [0x00, 0x00]) := by decide +kernel
/-- V-CS4: the sum wraps, 0x1FE. -/
theorem test_checksum_wraps :
    stepOn 0 [] 0x05 [0x02, 0x00, 0x02, 0x00, 0xFF, 0xFF] = some (0, some [0x00, 0x00, 0xFE]) := by decide +kernel
/-- V-CS6: `n > len`. -/
theorem test_checksum_n_above_len : stepOn 0 [] 0x05 [0x01, 0x00, 0x02, 0x00, 0xAA] = some (0, some [0x02, 0x00]) := by
  decide +kernel
/-- V-VAL9: an outbound frame. -/
theorem test_validate_outbound : stepOn 0 [] 0x06 [0x14, 0x00, 0xAA, 0x55, 0x90, 0xEB, 0x97, 0x04, 0xFE, 0xFF, 0xFF, 0xFF,
    0x00, 0x00, 0x00, 0x00, 0x00, 0x00, 0x00, 0x00, 0x00, 0x10] = some (0, some [0x00, 0x00, 0x01]) := by decide +kernel
/-- V-VAL5. -/
theorem test_validate_one_byte : stepOn 0 [] 0x06 [0x01, 0x00, 0x05] = some (0, some [0x00, 0x00, 0x00]) := by
  decide +kernel
/-- V-DEC1: X1 under TD gives REC_X1. -/
theorem test_decode_x1 : seen (exec (.decode (.assembled frameX1)) (blockAt 0 [] [])) =
    some (0, some ([0x00, 0x00, 0x01] ++ recX1)) := by decide +kernel
/-- V-DEC10: 299 bytes. -/
theorem test_decode_299_bytes : seen (exec (.decode (.assembled (List.replicate 299 0))) (blockAt 7 [] [])) =
    some (7, some [0x02, 0x00]) := by decide +kernel
/-- R180: 300 zero bytes are valid (the sum 0 is the last byte); type 0x00 is unknown. -/
theorem test_ingest_completes_a_frame :
    stepOn 299 [] 0x08 [0x01, 0x00, 0x00] = some (0, some [0x00, 0x08, 0x03, 0x00]) := by decide +kernel
/-- R180: 299 zero bytes and 0x01 are not valid: CSUM_MISMATCH, no event, the buffer cleared. -/
theorem test_ingest_mismatch : stepOn 299 [] 0x08 [0x01, 0x00, 0x01] = some (0, some [0x00, 0x04, 0x00]) := by
  decide +kernel
/-- V-ERR3. -/
theorem test_reserved_ff : stepOn 9 [] 0xFF [0x00, 0x00] = some (9, some [0x01, 0x00]) := by decide +kernel
/-- R207: a reserved code is BAD_OP whatever follows it. -/
theorem test_reserved_before_operand : stepOn 9 [] 0x09 [0x05, 0x00] = some (9, some [0x01, 0x00]) := by decide +kernel
/-- V-ERR4. -/
theorem test_is_ready_with_a_byte : stepOn 9 [] 0x02 [0x00] = some (9, some [0x02, 0x00]) := by decide +kernel
/-- V-ERR5. -/
theorem test_append_short : stepOn 9 [] 0x01 [0x05, 0x00, 0xAA] = some (9, some [0x02, 0x00]) := by decide +kernel
/-- X0 by its row (V-DEC6): 56 zero bytes. -/
theorem test_frame_cellinfo : seen (exec (.frameCellinfo frameX0) (blockAt 7 [] [])) =
    some (7, some ([0x00, 0x00, 0x01] ++ List.replicate 56 0x00)) := by decide +kernel
/-- D1 by its row (V-DEC2). -/
theorem test_frame_deviceinfo : seen (exec (.frameDeviceinfo frameD1) (blockAt 7 [] [])) =
    some (7, some [0x00, 0x00, 0x02, 0x08, 0x00, 0x47, 0x53, 0x4D, 0x2D, 0x54, 0x45, 0x53, 0x54]) := by decide +kernel
/-- S1 by its row (V-DEC3). -/
theorem test_frame_settings : seen (exec (.frameSettings frameS1) (blockAt 7 [] [])) =
    some (7, some [0x00, 0x00, 0x03, 0x01]) := by decide +kernel
/-- U7 by its row (V-DEC4). -/
theorem test_frame_unknown : seen (exec (.frameUnknown frameU7) (blockAt 7 [] [])) =
    some (7, some [0x00, 0x08, 0x03, 0x07]) := by decide +kernel

/-! ## Fields, on vectors V-F1 to V-F26 -/

/-- V-F3. -/
theorem test_popcount : popcount 0x01 + popcount 0x80 + popcount 0x10 = 3 := by decide
/-- V-F11 and V-F13. -/
theorem test_balance_array : balanceArray 4 0x02 0x00 0x00 = [true, false, false, false] ∧
    balanceArray 4 0x01 0x04 0x00 = [false, false, false, false] := by decide
/-- V-F12. -/
theorem test_balance_invalid : balState 0x03 = .invalid 0x03 ∧
    balanceArray 4 0x03 0x00 0x00 = [false, false, false, false] := by decide
/-- V-F15. -/
theorem test_signed_16 : s16le [0x00, 0x80] 0 = -32768 ∧ s16le [0xFF, 0x7F] 0 = 32767 := by decide
/-- V-F16. -/
theorem test_signed_32 : s32le [0x00, 0x00, 0x00, 0x80] 0 = -2147483648 ∧ s32le [0xFF, 0xFF, 0xFF, 0xFF] 0 = -1 := by
  decide
/-- V-F19. -/
theorem test_fault_mask : u16be [0x01, 0x00] 0 = 0x0100 ∧ activeFaults 0x0100 = [8] ∧ activeFaults 0x0001 = [0] := by
  decide
/-- V-F25 and V-F26. -/
theorem test_first_nul : firstNul [0x41, 0x00, 0x42, 0x00] = 1 ∧ firstNul [0xC3, 0xA9, 0x07, 0x00] = 3 ∧
    firstNul [0x41, 0x42] = 2 := by decide

/-! ## The storage's canonical form -/

theorem test_write_zero_removes_the_entry : Memory.write [(3, 0x11), (5, 0x22)] 3 0x00 = [(5, 0x22)] := by decide
theorem test_write_keeps_the_order : Memory.write [(3, 0x11), (5, 0x22)] 4 0x33 = [(3, 0x11), (4, 0x33), (5, 0x22)] := by
  decide
/-- R103: the bytes beyond position 299 are dropped. -/
theorem test_store_stops_at_the_end : storeChunk [] 298 [0x01, 0x02, 0x03] = [(298, 0x01), (299, 0x02)] := by decide

/-! ## Witnesses: for each statement with hypotheses, states and operands that meet them -/

/-- The descriptor of every block built by blockAt is well formed. -/
theorem blockAt_wf (n : Nat) (m : Memory) (qs : List Request) : descriptorWf (blockAt n m qs).variant = true := td_wf

/-- An accepted APPEND of a block built by blockAt completes. -/
theorem append_next (n : Nat) {c : Bytes} (h : c.length ≤ 512) :
    ∃ t, exec (.append (.assembled c)) (blockAt n [] []) = .next t := ⟨_, execAppend_assembled td_wf h⟩

/-- X0 with byte 100 changed, and X0 with byte 4 changed. -/
def frameX0m : Bytes := frameX0.set 100 0x01
def frameType (t : Byte) : Bytes := frameX0.set 4 t

/-- A step of such a block that runs a RESET, and one that runs a TAKE of fewer than 300 bytes. -/
theorem step_reset (n : Nat) (m : Memory) : step (blockAt n m [⟨0x04, []⟩]) =
    .next (answer (blockAt n m []) m 0 ⟨.ok, {}, .empty⟩) :=
  (step_cons (q := ⟨0x04, []⟩) (qs := []) rfl).trans (execReset_assembled (s := blockAt n m []) td_wf)

theorem step_take_one (m : Memory) : step (blockAt 1 m [⟨0x03, []⟩]) =
    .next (answer (blockAt 1 m []) m 1 ⟨.ok, {}, .taken none⟩) :=
  (step_cons (q := ⟨0x03, []⟩) (qs := []) rfl).trans (execTake_assembled (s := blockAt 1 m []) td_wf)

theorem witness_StepRunsOldestRequest :
    (blockAt 0 [] [⟨0x02, []⟩]).requests = ⟨0x02, []⟩ :: [] ∧ (blockAt 0 [] []).requests = [] := ⟨rfl, rfl⟩

theorem witness_EveryRequestIsAnsweredOnce :
    descriptorWf (blockAt 7 [] [⟨0xFF, []⟩]).variant = true ∧ (blockAt 7 [] [⟨0xFF, []⟩]).requests = ⟨0xFF, []⟩ :: [] :=
  ⟨td_wf, rfl⟩

theorem witness_ConstructionAndAnswersKeptAlongRuns :
    ∃ t : State, Host.Core.run Sys2Proof.core 1 (blockAt 7 [] [⟨0x04, []⟩]) = .next t :=
  ⟨_, (run_succ_of_step (step_reset _ _)).trans rfl⟩

theorem witness_IllFormedDescriptorIsRefused : descriptorWf badDescriptor = false := by decide +kernel

theorem witness_ConstructionGivesAnIdleBlock : descriptorWf Config.resetVariant = true := td_wf

theorem witness_InvariantHoldsWhenBuilt :
    descriptorWf Config.resetVariant = true ∧ Memory.wf [(0, 0x55), (299, 0x01)] := ⟨td_wf, by decide⟩

theorem witness_InvariantKeptByEveryStep :
    (blockAt 832 [(299, 0x01)] [⟨0x04, []⟩]).Inv ∧ ∃ t, step (blockAt 832 [(299, 0x01)] [⟨0x04, []⟩]) = .next t :=
  ⟨⟨td_wf, by decide, by decide⟩, _, step_reset _ _⟩

/-- The three ways a chunk meets the buffer: kept bytes at the bound, overflow just above it, a preamble; and the longest
chunk. -/
theorem witness_AppendAccumulatesAChunk :
    descriptorWf (blockAt 320 [] []).variant = true ∧ (blockAt 320 [(5, 0x01)] []).buf.wf ∧
    ¬ (StartsWithPreamble [0x01] ∨ 320 < (blockAt 320 [] []).count) ∧ 320 < (blockAt 321 [] []).count ∧
    StartsWithPreamble [0x55, 0xAA, 0xEB, 0x90] ∧
    (List.replicate 512 (0x00#8)).length ≤ (blockAt 0 [] []).maxChunk.val :=
  ⟨td_wf, by decide, by decide, by decide, by decide, by decide +kernel⟩

theorem witness_IsReadyReportsTheCount : descriptorWf (blockAt 300 [] []).variant = true := td_wf

theorem witness_TakeReturnsTheFirst300Bytes :
    descriptorWf (blockAt 300 [] []).variant = true ∧ 300 ≤ (blockAt 300 [] []).count := ⟨td_wf, by decide⟩

theorem witness_TakeBeforeReadinessKeepsThePartialFrame :
    descriptorWf (blockAt 299 [] []).variant = true ∧ (blockAt 299 [] []).count < 300 := ⟨td_wf, by decide⟩

theorem witness_ResetClearsOnlyTheCount : descriptorWf (blockAt 150 [] []).variant = true := td_wf

/-- Every row of the table, with the lengths at which it changes. -/
theorem witness_FbStateFollowsTheTransitionTable :
    (∀ (n : Nat) (c : Bytes), c.length ≤ 512 → ∃ t, exec (.append (.assembled c)) (blockAt n [] []) = .next t) ∧
    (blockAt 0 [] []).fbState = .idle ∧ (List.replicate 299 (0x00#8)).length < 300 ∧
    300 ≤ (List.replicate 300 (0x00#8)).length ∧ (blockAt 1 [] []).fbState = .accumulating ∧
    ¬ StartsWithPreamble (List.replicate 299 0x00#8) ∧ (blockAt 299 [] []).fbState = .accumulating ∧
    StartsWithPreamble [0x55, 0xAA, 0xEB, 0x90] ∧ (blockAt 300 [] []).fbState = .ready ∧
    ((blockAt 320 [] []).fbState = .ready ∧ (blockAt 320 [] []).count ≤ 320) ∧ 320 < (blockAt 321 [] []).count ∧
    (∃ t, exec (.take (.assembled ())) (blockAt 299 [] []) = .next t) ∧
    (∃ t, exec (.reset (.assembled ())) (blockAt 1 [] []) = .next t) ∧
    (∃ t, exec (.isReady (.assembled ())) (blockAt 1 [] []) = .next t) :=
  ⟨fun _ _ h => append_next _ h, by decide, by decide +kernel, by decide +kernel, by decide, by decide +kernel,
   by decide, by decide, by decide, by decide, by decide, ⟨_, execTake_assembled td_wf⟩,
   ⟨_, execReset_assembled td_wf⟩, ⟨_, execIsReady_assembled td_wf⟩⟩

theorem witness_CountAfterAChunkIsBounded :
    (List.replicate 512 (0x00#8)).length ≤ (blockAt 320 [] []).maxChunk.val ∧
    (∃ t, exec (.append (.assembled (List.replicate 512 0x00#8))) (blockAt 320 [] []) = .next t) ∧
    (∃ t, exec (.ingest (.assembled [0x00])) (blockAt 298 [] []) = .next t) :=
  ⟨by decide +kernel, append_next _ (by decide +kernel), _, execIngest_assembled td_wf (by decide)⟩

/-- A fall of the count by each of the four instructions. -/
theorem witness_CountFallsOnlyAtTheListedClears :
    (∃ t, exec (.take (.assembled ())) (blockAt 300 [] []) = .next t ∧ t.count < 300) ∧
    (∃ t, exec (.reset (.assembled ())) (blockAt 1 [] []) = .next t ∧ t.count < 1) ∧
    (∃ t, exec (.append (.assembled [0x01])) (blockAt 321 [] []) = .next t ∧ t.count < 321) ∧
    (∃ t, exec (.append (.assembled [0x55, 0xAA, 0xEB, 0x90])) (blockAt 5 [] []) = .next t ∧ t.count < 5) ∧
    (∃ t, exec (.ingest (.assembled [0x01])) (blockAt 299 [] []) = .next t ∧ t.count < 299) :=
  ⟨⟨_, execTake_assembled td_wf, by decide⟩, ⟨_, execReset_assembled td_wf, by decide⟩,
   ⟨_, execAppend_assembled td_wf (by decide), by decide⟩, ⟨_, execAppend_assembled td_wf (by decide), by decide⟩,
   ⟨_, execIngest_assembled td_wf (by decide), by decide⟩⟩

/-- A cut of X0 in two with an empty chunk between, and in one, with no empty chunk last; and one with an empty chunk
last. -/
def x0Chunks : List Bytes := [frameX0.take 150, [], frameX0.drop 150]

theorem x0_cut : IsCut 512 frameX0 x0Chunks := ⟨by decide +kernel, by decide +kernel, by decide +kernel⟩

theorem x0_last : x0Chunks.getLast? ≠ some [] ∧ [[], frameX0.drop 150].getLast? ≠ some [] ∧
    ([] : List Bytes).getLast? ≠ some [] := by decide +kernel

theorem x0_cut_empty_last : IsCut 512 frameX0 (x0Chunks ++ [[]]) :=
  ⟨by decide +kernel, by decide +kernel, by decide +kernel⟩

theorem x0_whole : IsCut 512 frameX0 [frameX0] := ⟨by decide +kernel, by decide +kernel, by decide +kernel⟩

theorem x0_valid : validFrame frameX0 = true := by decide +kernel

theorem witness_SplitAppendsFillTheBuffer :
    let cs := x0Chunks ++ [[]]
    let s := blockAt 0 [(7, 0x01)] (cs.map appendRequest)
    descriptorWf s.variant = true ∧ s.buf.wf ∧ s.count = 0 ∧ frameX0.length = 300 ∧
      IsCut s.maxChunk.val frameX0 cs ∧ s.requests = cs.map appendRequest :=
  ⟨td_wf, by decide, rfl, frameOf_length _ _ _, x0_cut_empty_last, rfl⟩

/-- A chunk that does not complete a frame, and one that does. -/
theorem witness_IngestTakesValidatesAndDecodes :
    descriptorWf (blockAt 298 [] []).variant = true ∧ (blockAt 298 [(0, 0x55)] []).buf.wf ∧
    [0x00#8].length ≤ (blockAt 298 [] []).maxChunk.val ∧ ¬ StartsWithPreamble [0x00] ∧
    (blockAt 298 [] []).count + [0x00#8].length < 300 ∧ 300 ≤ (blockAt 299 [] []).count + [0x00#8].length :=
  ⟨td_wf, by decide, by decide, by decide, by decide, by decide⟩

/-- The three paths: not ready, ready and not valid, ready and valid. -/
theorem witness_IngestIsThePrimitivePath :
    descriptorWf (blockAt 299 [] []).variant = true ∧ [0x00#8].length ≤ (blockAt 299 [] []).maxChunk.val ∧
    (keptCount [0x00] (blockAt 298 [] []) + 1 < 300 ∧ 300 ≤ keptCount [0x00] (blockAt 299 [] []) + 1) ∧
    validFrame (readFrame (storeChunk [] 299 [0x01])) = false ∧
    validFrame (readFrame (storeChunk [] 299 [0x00])) = true :=
  ⟨td_wf, by decide, by decide, by decide +kernel, by decide +kernel⟩

/-- With an empty chunk inside the cut, and one after it. -/
theorem witness_SplitIngestsDecodeTheFrameOnce :
    let s := blockAt 0 [(7, 0x01)] ((x0Chunks ++ List.replicate 1 []).map ingestRequest)
    descriptorWf s.variant = true ∧ s.buf.wf ∧ s.count = 0 ∧ frameX0.length = 300 ∧ validFrame frameX0 = true ∧
      IsCut s.maxChunk.val frameX0 x0Chunks ∧ x0Chunks.getLast? ≠ some [] ∧
      s.requests = (x0Chunks ++ List.replicate 1 []).map ingestRequest :=
  ⟨td_wf, by decide, rfl, frameOf_length _ _ _, x0_valid, x0_cut, x0_last.1, rfl⟩

/-- With chunks after the first, and with none. -/
theorem witness_ResyncDecodesOnlyTheNewFrame :
    descriptorWf (blockAt 299 [] []).variant = true ∧ (blockAt 299 [(7, 0x01)] []).buf.wf ∧
    0 < (blockAt 1 [] []).count ∧ (blockAt 299 [] []).count < 300 ∧ frameX0.length = 300 ∧ validFrame frameX0 = true ∧
    (StartsWithPreamble (frameX0.take 150) ∧ IsCut 512 frameX0 (frameX0.take 150 :: [[], frameX0.drop 150]) ∧
      [[], frameX0.drop 150].getLast? ≠ some []) ∧
    (StartsWithPreamble frameX0 ∧ IsCut 512 frameX0 [frameX0] ∧ ([] : List Bytes).getLast? ≠ some []) :=
  ⟨td_wf, by decide, by decide, by decide, frameOf_length _ _ _, x0_valid,
   ⟨by decide +kernel, x0_cut, x0_last.2.1⟩, by decide +kernel, x0_whole, x0_last.2.2⟩

theorem witness_NoOverflowWithoutAppend :
    (∀ q ∈ (blockAt 299 [] [⟨0x04, []⟩]).requests, q.op ≠ 0x01#8) ∧ (blockAt 299 [] [⟨0x04, []⟩]).count < 300 ∧
    ∃ t : State, Host.Core.run Sys2Proof.core 1 (blockAt 299 [] [⟨0x04, []⟩]) = .next t :=
  ⟨by decide, by decide, _, (run_succ_of_step (step_reset _ _)).trans rfl⟩

/-- Two blocks that differ in a byte beyond the count. -/
theorem witness_UndefinedBufferBytesAreNeverSeen :
    let s := blockAt 1 [(0, 0x05), (7, 0x09)] [⟨0x03, []⟩]
    let t := blockAt 1 [(0, 0x05), (299, 0x01)] [⟨0x03, []⟩]
    s.buf.wf ∧ t.buf.wf ∧ s.Alike t ∧ ∃ s', step s = .next s' := by
  refine ⟨by decide, by decide, ⟨rfl, rfl, rfl, rfl, rfl, fun p hp => ?_⟩, _,
    step_take_one _⟩
  have hp : p < min 1 300 := hp
  obtain rfl : p = 0 := by omega
  rfl

theorem witness_BlockRefinesTheGrowingBuffer :
    let s := blockAt 2 [(0, 0x01), (1, 0x02)] []
    s.buf.wf ∧ s.Holds [0x01, 0x02] ∧ (∃ t, exec (.isReady (.assembled ())) s = .next t) ∧
      growResult s.variant s.maxChunk.val (.isReady (.assembled ())) [0x01, 0x02] = some (.ready false) := by
  refine ⟨by decide, ⟨rfl, fun p hp => ?_⟩, ⟨_, execIsReady_assembled td_wf⟩, by decide⟩
  have hp : p < min 2 300 := hp
  obtain rfl | rfl : p = 0 ∨ p = 1 := by omega
  · rfl
  · rfl

/-- `n = |s|`, and `n = |s| + 1`. -/
theorem witness_ChecksumRunsItsLoop :
    descriptorWf (blockAt 0 [] []).variant = true ∧ (2#16).toNat ≤ [0xFF#8, 0x01#8].length ∧
    [0xFF#8, 0x01#8].length < (3#16).toNat ∧ [0xFF#8, 0x01#8].length < 65536 :=
  ⟨td_wf, by decide, by decide, by decide⟩

theorem witness_ChecksumIsTheSumModulo256 :
    descriptorWf (blockAt 0 [] []).variant = true ∧ (2#16).toNat ≤ [0xFF#8, 0x01#8].length := ⟨td_wf, by decide⟩

theorem witness_ValidateComparesTheLastByte :
    descriptorWf (blockAt 0 [] []).variant = true ∧ [0x07#8, 0x07#8].length < 65536 := ⟨td_wf, by decide⟩

/-- The checksum byte itself is changed. -/
theorem witness_SingleByteChangeIsDetected :
    let s := blockAt 0 [] []
    descriptorWf s.variant = true ∧ 1 < [0x07#8, 0x07#8].length ∧ 0x08#8 ≠ [0x07#8, 0x07#8].getD 1 0#8 ∧
      exec (.validate (.assembled [0x07, 0x07])) s =
        .next { s with responses := s.responses ++ [⟨.ok, {}, .verdict true⟩] } :=
  ⟨td_wf, by decide, by decide, execValidate_assembled td_wf _⟩

theorem witness_OutboundCommandFrameValidates : descriptorWf (blockAt 0 [] []).variant = true := td_wf

theorem witness_ReorderingIsNotDetected : List.Perm [0x01#8, 0x02#8] [0x02#8, 0x01#8] := by decide

theorem witness_DecodeDispatchesOnTheTypeByte :
    descriptorWf (blockAt 0 [] []).variant = true ∧ frameX1.length = 300 := ⟨td_wf, frameOf_length _ _ _⟩

/-- Each row, and the unknown types next to the known ones. -/
theorem witness_FrameTypeRowsYieldTheirEvents :
    descriptorWf (blockAt 0 [] []).variant = true ∧
    (frameX0.length = 300 ∧ frameX0.getD 4 0#8 = 0x02#8) ∧ (frameD1.length = 300 ∧ frameD1.getD 4 0#8 = 0x03#8) ∧
    (∀ t ∈ [0x00#8, 0x04#8, 0xFF#8], (frameType t).length = 300 ∧ (frameType t).getD 4 0#8 ≠ 0x01#8 ∧
      (frameType t).getD 4 0#8 ≠ 0x02#8 ∧ (frameType t).getD 4 0#8 ≠ 0x03#8) :=
  ⟨td_wf, by decide +kernel, by decide +kernel, by decide +kernel⟩

theorem witness_SettingsFrameIsUnhandledWithoutAFlag :
    descriptorWf (blockAt 0 [] []).variant = true ∧ frameS1.length = 300 ∧ frameS1.getD 4 0#8 = 0x01#8 :=
  ⟨td_wf, frameOf_length _ _ _, by decide +kernel⟩

/-- A row that a frame decodes to, and frames that match no such row. -/
theorem witness_FrameRowsAreTheCasesOfDecode :
    decodeFrame frameX1 = .ok (.frameCellinfo frameX1) ∧ descriptorWf (blockAt 0 [] []).variant = true ∧
    ¬ (frameD1.length = 300 ∧ frameD1.getD 4 0#8 = 0x02#8) ∧ ¬ (frameX0.length = 300 ∧ frameX0.getD 4 0#8 = 0x03#8) ∧
    ¬ (frameU7.length = 300 ∧ frameU7.getD 4 0#8 = 0x01#8) ∧ (frameX0.drop 1).length ≠ 300 ∧
    frameS1.getD 4 0#8 = 0x01#8 :=
  ⟨test_decode_cellinfo, td_wf, by decide +kernel, by decide +kernel, by decide +kernel, by decide +kernel,
   by decide +kernel⟩

theorem witness_PureOperationsChangeNoState :
    (∃ t, exec (.isReady (.assembled ())) (blockAt 300 [] []) = .next t) ∧
    (∀ c, Instr.isReady (.assembled ()) ≠ .append c) ∧ (∀ c, Instr.isReady (.assembled ()) ≠ .ingest c) ∧
    (∀ o, Instr.isReady (.assembled ()) ≠ .take o) ∧ (∀ o, Instr.isReady (.assembled ()) ≠ .reset o) :=
  ⟨⟨_, execIsReady_assembled td_wf⟩, fun _ => nofun, fun _ => nofun, fun _ => nofun, fun _ => nofun⟩

/-- X0 and X0 with byte 100 changed, which TD does not cover. -/
theorem witness_DecodeReadsOnlyCoveredBytes :
    let V := (blockAt 0 [] []).variant
    frameX0 ≠ frameX0m ∧ frameX0.length = 300 ∧ frameX0m.length = 300 ∧ frameX0.getD 4 0#8 = frameX0m.getD 4 0#8 ∧
      ∀ o, Covered V (cellCount V frameX0) o → frameX0.getD o 0#8 = frameX0m.getD o 0#8 := by
  refine ⟨by decide +kernel, frameOf_length _ _ _, by decide +kernel, by decide +kernel, fun o ho => ?_⟩
  have hne : o ≠ 100 := by
    rintro rfl
    rcases ho with ⟨ow, hm, h⟩ | h
    · have key : ∀ ow ∈ fixedFields Config.resetVariant, ¬ (ow.1 ≤ 100 ∧ 100 < ow.1 + ow.2) := by decide +kernel
      exact key ow hm h
    · have hc : cellCount Config.resetVariant frameX0 = 0 := by decide +kernel
      have h : 6 ≤ 100 ∧ 100 < 6 + 2 * cellCount Config.resetVariant frameX0 := h
      omega
  simp only [frameX0m, List.getD_eq_getElem?_getD]
  rw [List.getElem?_set_ne (Ne.symm hne)]

theorem witness_CellVoltagesAreTheFirstTableEntries :
    3 < (extractCellInfo Config.resetVariant frameX1).cellCount := by decide +kernel

theorem witness_BalanceArrayMarksTheTarget :
    3 < (extractCellInfo Config.resetVariant frameX1).cellCount ∧
    3 ≤ (extractCellInfo Config.resetVariant (frameX0.set 172 0x03)).balStateRaw.toNat := by decide +kernel

/-- D1: eight bytes, then a NUL inside the window of sixteen. -/
theorem witness_VendorStringEndsAtTheFirstNul :
    descriptorWf Config.resetVariant = true ∧ frameD1.length = 300 ∧
    7 < (extractDeviceInfo Config.resetVariant frameD1).vendorLen ∧
    (extractDeviceInfo Config.resetVariant frameD1).vendorLen < Config.resetVariant.vendLen :=
  ⟨td_wf, frameOf_length _ _ _, by decide +kernel, by decide +kernel⟩

/-- The first payload byte, by the table, and the last byte of TD's fields. -/
theorem witness_ReadsStayInsideThePayload :
    descriptorWf Config.resetVariant = true ∧ Covered Config.resetVariant (cellCount Config.resetVariant frameX1) 6 ∧
    Covered Config.resetVariant (cellCount Config.resetVariant frameX1) 205 :=
  ⟨td_wf, .inr (by decide +kernel), .inl ⟨(205, 1), by decide +kernel, by decide⟩⟩

/-- A record with a voltage. -/
theorem witness_SignedReadingsAreTwosComplement : 3 < (extractCellInfo Config.resetVariant frameX1).cellMv.length := by
  decide +kernel

theorem witness_CellInfoBytesHaveTheirLayout :
    3 < (extractCellInfo Config.resetVariant frameX1).cellCount := by decide +kernel

theorem witness_CellInfoBytesDetermineTheRecord : frameX0 ≠ frameX0m ∧
    (extractCellInfo Config.resetVariant frameX0).toBytes = (extractCellInfo Config.resetVariant frameX0m).toBytes := by
  decide +kernel

theorem witness_DeviceInfoBytesHaveTheirLayout :
    descriptorWf Config.resetVariant = true ∧ frameD1.length = 300 := ⟨td_wf, frameOf_length _ _ _⟩

/-- One request of each operand form. -/
theorem witness_DecodeOfEncodeIsTheRequest :
    512 < 65536 ∧ ∀ i ∈ [Instr.append (.assembled [0xAA]), .isReady (.assembled ()), .checksum (.assembled ⟨1, [0xAA]⟩),
      .validate (.assembled []), .decode (.assembled frameX0), .reservedOp 0xFF [0x00]],
      i.isRequest = true ∧ i.wf 512 = true := ⟨by decide, by decide +kernel⟩

theorem witness_FrameRowsRoundTrip :
    frameX0.length = 300 ∧ (∀ i ∈ [Instr.frameCellinfo frameX0, .frameDeviceinfo frameD1, .frameSettings frameS1,
      .frameUnknown frameU7], i.isRequest = false ∧ i.wf 512 = true) ∧ (frameX0.drop 1).length ≠ 300 :=
  ⟨frameOf_length _ _ _, by decide +kernel, by decide +kernel⟩

/-- The reserved codes at the ends of their ranges, and the defined ones. -/
theorem witness_ReservedCodeAnswersBadOp :
    descriptorWf (blockAt 0 [] []).variant = true ∧
    (∀ op ∈ [0x00#8, 0x09#8, 0xFF#8], ReservedRequest ⟨op, [0x05]⟩) ∧
    ∀ code ∈ [0x01#8, 0x08#8], 1 ≤ code.toNat ∧ code.toNat ≤ 8 := ⟨td_wf, by decide, by decide⟩

/-- A request of each status. -/
theorem witness_StatusIsDecidedByTheRequestBytes :
    descriptorWf (blockAt 0 [] []).variant = true ∧ ReservedRequest ⟨0x09, []⟩ ∧
    WellFormedRequest 512 ⟨0x05, [0x01, 0x00, 0x01, 0x00, 0xAA]⟩ ∧
    ¬ ReservedRequest ⟨0x05, [0x01, 0x00, 0x02, 0x00, 0xAA]⟩ ∧
    ¬ WellFormedRequest 512 ⟨0x05, [0x01, 0x00, 0x02, 0x00, 0xAA]⟩ := by
  refine ⟨td_wf, by decide, ?_, by decide, ?_⟩
  · exact ⟨by decide, by decide, by decide⟩
  · exact fun h => absurd h.2.2 (by decide)

/-- Each kind of operand that is not accepted, one above its bound. -/
theorem witness_UnacceptedOperandsAnswerErrOperand :
    descriptorWf (blockAt 0 [] []).variant = true ∧
    (blockAt 0 [] []).maxChunk.val < (List.replicate 513 (0x00#8)).length ∧ [0xAA#8].length < (2#16).toNat ∧
    (List.replicate 299 (0x00#8)).length ≠ 300 := ⟨td_wf, by decide +kernel, by decide, by decide +kernel⟩

/-- Each flag, raised. -/
theorem witness_DiagnosticFlagsExcludeEachOther :
    (∃ t r, exec (.append (.assembled [0x01])) (blockAt 321 [] []) = .next t ∧ t.responses = [] ++ [r] ∧
      r.diag.overflow = true) ∧
    (∃ t r, exec (.append (.assembled [0x55, 0xAA, 0xEB, 0x90])) (blockAt 1 [] []) = .next t ∧
      t.responses = [] ++ [r] ∧ r.diag.resync = true) ∧
    (∃ t r, exec (.ingest (.assembled [0x01])) (blockAt 299 [] []) = .next t ∧ t.responses = [] ++ [r] ∧
      r.diag.csumMismatch = true) ∧
    (∃ t r, exec (.decode (.assembled frameU7)) (blockAt 0 [] []) = .next t ∧ t.responses = [] ++ [r] ∧
      r.diag.unknownType = true) :=
  ⟨⟨_, _, execAppend_assembled td_wf (by decide), rfl, rfl⟩, ⟨_, _, execAppend_assembled td_wf (by decide), rfl, rfl⟩,
   ⟨_, _, (execIngest_assembled td_wf (by decide)).trans (if_pos (by decide)), rfl, by decide +kernel⟩,
   ⟨_, _, execDecode_assembled td_wf (frameOf_length _ _ _), rfl, by decide +kernel⟩⟩

theorem witness_InstancesShareNoState :
    ∃ l, stepInstance 0 [blockAt 1 [] [⟨0x04, []⟩], blockAt 2 [] []] = .next l ∧
      [blockAt 1 [] [⟨0x04, []⟩], blockAt 2 [] []][0]? = some (blockAt 1 [] [⟨0x04, []⟩]) := by
  refine ⟨[answer (blockAt 1 [] []) [] 0 ⟨.ok, {}, .empty⟩, blockAt 2 [] []], ?_, rfl⟩
  simp only [stepInstance, List.getElem?_cons_zero, step_reset, List.set_cons_zero]

end Sys2Proof.Tests
end

section
/-! SUPPORT. The frame parser's requests that take no operand: IS_READY, TAKE, RESET (40_frame_parser.md R105, R106,
R108). -/

namespace Sys2Proof.Machine

/-! ## The requests of one byte, and what any byte after the code makes of them (30_encoding.md R73) -/

theorem decodeRequest_isReady (tail : Bytes) : decodeRequest ⟨0x02#8, tail⟩ = .isReady (assembleNone tail) := rfl

theorem decodeRequest_take (tail : Bytes) : decodeRequest ⟨0x03#8, tail⟩ = .take (assembleNone tail) := rfl

theorem decodeRequest_reset (tail : Bytes) : decodeRequest ⟨0x04#8, tail⟩ = .reset (assembleNone tail) := rfl

@[simp] theorem assembleNone_nil : assembleNone [] = .assembled () := rfl

@[simp] theorem assembleNone_cons (b : Byte) (tail : Bytes) :
    assembleNone (b :: tail) = .malformed (b :: tail) := rfl

/-! ## The statements -/

/-- Settles O10: the ready bit is a function of the count, and the answer is the only change. -/
theorem isReadyReportsTheCount : Obligations.IsReadyReportsTheCount := by
  intro s hw
  refine ⟨execIsReady_assembled hw, ?_, fun b tail => ?_⟩
  · rw [decodeRequest_isReady, assembleNone_nil]
  · rw [decodeRequest_isReady, assembleNone_cons]
    exact execIsReady_malformed hw _

/-- Settles O11: the frame is the buffer's 300 positions read as one value, before the count is cleared. -/
theorem takeReturnsTheFirst300Bytes : Obligations.TakeReturnsTheFirst300Bytes := by
  intro s hw
  refine ⟨fun hready => ?_, ?_, fun b tail => ?_⟩
  · refine ⟨readFrame s.buf, readFrame_length s.buf, fun p hp => readFrame_getD s.buf hp, ?_⟩
    rw [execTake_assembled hw, if_pos hready]
    rfl
  · rw [decodeRequest_take, assembleNone_nil]
  · rw [decodeRequest_take, assembleNone_cons]
    exact execTake_malformed hw _

/-- Settles O13: of the state's fields RESET writes the count alone, besides its answer. -/
theorem resetClearsOnlyTheCount : Obligations.ResetClearsOnlyTheCount := by
  intro s hw
  refine ⟨execReset_assembled hw, ?_, fun b tail => ?_⟩
  · rw [decodeRequest_reset, assembleNone_nil]
  · rw [decodeRequest_reset, assembleNone_cons]
    exact execReset_malformed hw _

end Sys2Proof.Machine
end

section
/-! SUPPORT. The checksum validator's request: VALIDATE (41_checksum.md R122). -/

namespace Sys2Proof.Machine

theorem decodeRequest_validate (tail : Bytes) : decodeRequest ⟨0x06#8, tail⟩ = .validate (assembleSeq tail) := rfl

/-- The bytes after the code are the assembly's own encoding of the operand (30_encoding.md R73). -/
theorem seqRequest_eq_encodeSeq (op : Byte) (c : Bytes) : seqRequest op c = ⟨op, encodeSeq (.assembled c)⟩ := rfl

/-- Settles O27: a frame is empty, or a body and a last byte, and the verdict of each form is `validFrame`'s. -/
theorem validateComparesTheLastByte : Obligations.ValidateComparesTheLastByte := by
  intro s hw
  refine ⟨?_, fun body last => ?_, fun tail => execValidate_malformed hw tail, fun f hf => ?_⟩
  · rw [execValidate_assembled hw, validFrame_nil]
    rfl
  · rw [execValidate_assembled hw, validFrame_append]
    rfl
  · rw [seqRequest_eq_encodeSeq, decodeRequest_validate, assembleSeq_encode hf]

end Sys2Proof.Machine
end

section
/-! SUPPORT. The bitfield extractor's fault mask, enable flags and vendor string (43_bitfield_extractor.md R157,
R164-R166, R170). -/

namespace Sys2Proof.Machine

/-! ## The fault mask's set bits (43_bitfield_extractor.md R157) -/

theorem mem_activeFaults {mask : Half} {i : Fin Config.faultBits} :
    i ∈ activeFaults mask ↔ mask.getLsbD i.val = true := by
  simp [activeFaults]

/-- The positions are listed from 0 up, and leaving some out keeps the order. -/
theorem activeFaults_ascending (mask : Half) : (activeFaults mask).Pairwise (fun i j => i.val < j.val) :=
  (List.pairwise_lt_finRange Config.faultBits).filter _

/-! ## An enable byte (43_bitfield_extractor.md R164-R166) -/

theorem enabled_iff {f : Bytes} {o : Nat} : enabled f o = true ↔ f.getD o 0#8 ≠ 0#8 := decide_eq_true_iff

/-! ## A window of a frame, and its bytes up to the first NUL (43_bitfield_extractor.md R170) -/

theorem memRead_length {f : Bytes} {o n : Nat} (h : o + n ≤ f.length) : (memRead f o n).length = n := by
  rw [memRead, List.length_take, List.length_drop]
  omega

theorem memRead_getD {f : Bytes} {o n j : Nat} (h : j < n) : (memRead f o n).getD j 0#8 = f.getD (o + j) 0#8 := by
  simp only [memRead, List.getD_eq_getElem?_getD, List.getElem?_take_of_lt h, List.getElem?_drop]

theorem take_firstNul_length (w : Bytes) : (w.take (firstNul w)).length = firstNul w :=
  List.length_take_of_le (firstNul_le w)

theorem take_firstNul_getD {w : Bytes} {j : Nat} (h : j < firstNul w) :
    (w.take (firstNul w)).getD j 0#8 = w.getD j 0#8 := by
  simp only [List.getD_eq_getElem?_getD, List.getElem?_take_of_lt h]

/-- A byte before the first NUL is an element of the part that is kept, and none of those is a NUL. -/
theorem getD_ne_zero_of_lt_firstNul {w : Bytes} {j : Nat} (h : j < firstNul w) : w.getD j 0#8 ≠ 0#8 := by
  have hj : j < (w.take (firstNul w)).length := (take_firstNul_length w).symm ▸ h
  rw [← take_firstNul_getD h, List.getD_eq_getElem _ _ hj]
  exact take_firstNul w _ (List.getElem_mem hj)

/-- The vendor window is a field of the descriptor, so it lies in the payload (10_state.md R25). -/
theorem vendorWindow_in_payload {V : VariantDescriptor} (hV : descriptorWf V = true) :
    6 ≤ V.vendOff ∧ V.vendOff + V.vendLen ≤ 299 :=
  field_in_payload hV (by simp [descriptorFields, fixedFields])

/-! ## The statements -/

/-- Settles O40: the mask is `u16be` of its two bytes, and the active faults are its set bits by `mem_activeFaults`. -/
theorem faultMaskIsBigEndianAndListedAscending : Obligations.FaultMaskIsBigEndianAndListedAscending := by
  intro V f
  exact ⟨u16be_toNat f V.faultOff, activeFaults_ascending _, fun _ => mem_activeFaults, rfl⟩

/-- Settles O43: inside a 300-byte frame the window has all its bytes, and its first NUL says where the string ends. -/
theorem vendorStringEndsAtTheFirstNul : Obligations.VendorStringEndsAtTheFirstNul := by
  intro V f hV hf
  obtain ⟨hlo, hhi⟩ := vendorWindow_in_payload hV
  have hlen : firstNul (memRead f V.vendOff V.vendLen) ≤ V.vendLen := by
    calc firstNul (memRead f V.vendOff V.vendLen) ≤ (memRead f V.vendOff V.vendLen).length := firstNul_le _
      _ = V.vendLen := memRead_length (by omega)
  refine ⟨hlen, take_firstNul_length _, fun j hj => ?_, fun hlt => ?_, hlo, hhi⟩
  · rw [← memRead_getD (Nat.lt_of_lt_of_le hj hlen)]
    exact ⟨take_firstNul_getD hj, getD_ne_zero_of_lt_firstNul hj⟩
  · rw [← memRead_getD hlt]
    exact getD_firstNul _

/-- Settles O42: each of the three flags is `enabled` of its byte. -/
theorem enableFlagsAreNonzeroBytes : Obligations.EnableFlagsAreNonzeroBytes := by
  intro V f
  exact ⟨enabled_iff, enabled_iff, enabled_iff⟩

end Sys2Proof.Machine
end

section
/-! SUPPORT. The request decoder, one code at a time, and the round trips of both formats (30_encoding.md R66,
R70-R73). -/

namespace Sys2Proof.Machine

/-! ## The requests by their code -/

theorem decodeRequest_op_append (tail : Bytes) : decodeRequest ⟨0x01#8, tail⟩ = .append (assembleSeq tail) := rfl

theorem decodeRequest_op_checksum (tail : Bytes) :
    decodeRequest ⟨0x05#8, tail⟩ = .checksum (assembleChecksum tail) := rfl

theorem decodeRequest_op_decode (tail : Bytes) : decodeRequest ⟨0x07#8, tail⟩ = .decode (assembleSeq tail) := rfl

theorem decodeRequest_op_ingest (tail : Bytes) : decodeRequest ⟨0x08#8, tail⟩ = .ingest (assembleSeq tail) := rfl

/-- A request has one of the eight defined codes, or a reserved one (30_encoding.md R71, R72). -/
theorem request_cases {P : Request → Prop} (append : ∀ tail, P ⟨0x01#8, tail⟩) (isReady : ∀ tail, P ⟨0x02#8, tail⟩)
    (take : ∀ tail, P ⟨0x03#8, tail⟩) (reset : ∀ tail, P ⟨0x04#8, tail⟩) (checksum : ∀ tail, P ⟨0x05#8, tail⟩)
    (validate : ∀ tail, P ⟨0x06#8, tail⟩) (decode : ∀ tail, P ⟨0x07#8, tail⟩) (ingest : ∀ tail, P ⟨0x08#8, tail⟩)
    (reserved : ∀ q, ReservedRequest q → P q) (q : Request) : P q := by
  by_cases hr : ReservedRequest q
  · exact reserved q hr
  obtain ⟨op, tail⟩ := q
  have hop : op = 0x01#8 ∨ op = 0x02#8 ∨ op = 0x03#8 ∨ op = 0x04#8 ∨ op = 0x05#8 ∨ op = 0x06#8 ∨ op = 0x07#8 ∨
      op = 0x08#8 := by
    simp only [ReservedRequest] at hr
    bv_omega
  obtain rfl | rfl | rfl | rfl | rfl | rfl | rfl | rfl := hop
  · exact append tail
  · exact isReady tail
  · exact take tail
  · exact reset tail
  · exact checksum tail
  · exact validate tail
  · exact decode tail
  · exact ingest tail

/-! ## What a well-formed operand is (30_encoding.md R73) -/

theorem eq_assembled_of_chunkWf {m : Nat} {o : Operand Bytes} (h : chunkWf m o = true) :
    ∃ c, o = .assembled c ∧ c.length ≤ m := by
  cases o with
  | assembled c => exact ⟨c, rfl, of_decide_eq_true h⟩
  | malformed tail => cases h

theorem eq_assembled_of_noOperandWf {o : Operand Unit} (h : noOperandWf o = true) : o = .assembled () := by
  cases o with
  | assembled u => rfl
  | malformed tail => cases h

theorem eq_assembled_of_checksumWf {o : Operand ChecksumArgs} (h : checksumWf o = true) :
    ∃ a, o = .assembled a ∧ a.s.length < Config.lenBound := by
  cases o with
  | assembled a => exact ⟨a, rfl, of_decide_eq_true (Bool.and_eq_true_iff.mp h).1⟩
  | malformed tail => cases h

theorem eq_assembled_of_anyFrameWf {o : Operand Bytes} (h : anyFrameWf o = true) :
    ∃ f, o = .assembled f ∧ f.length < Config.lenBound := by
  cases o with
  | assembled f => exact ⟨f, rfl, of_decide_eq_true h⟩
  | malformed tail => cases h

theorem eq_assembled_of_wholeFrameWf {o : Operand Bytes} (h : wholeFrameWf o = true) :
    ∃ f, o = .assembled f ∧ f.length = Config.frameLen := by
  cases o with
  | assembled f => exact ⟨f, rfl, of_decide_eq_true h⟩
  | malformed tail => cases h

/-! ## The rows of the frame format (30_encoding.md R66) -/

theorem frameTypeByte?_of_length_ne {f : Bytes} (h : f.length ≠ Config.frameLen) : frameTypeByte? f = none :=
  if_neg h

/-- The type byte that could be read is byte 4 of a whole frame. -/
theorem frameTypeByte?_eq_some_iff {f : Bytes} {t : Byte} :
    frameTypeByte? f = some t ↔ f.length = 300 ∧ f.getD 4 0#8 = t := by
  constructor
  · intro h
    have hf := frameTypeByte?_length h
    exact ⟨hf, Option.some.inj ((frameTypeByte?_of_length hf).symm.trans h)⟩
  · rintro ⟨hf, rfl⟩
    exact frameTypeByte?_of_length hf

/-- The row of a whole frame. -/
theorem decodeFrame_of_length {f : Bytes} (hf : f.length = 300) :
    decodeFrame f = .ok (if f.getD 4 0#8 = 0x02#8 then .frameCellinfo f
      else if f.getD 4 0#8 = 0x03#8 then .frameDeviceinfo f
      else if f.getD 4 0#8 = 0x01#8 then .frameSettings f else .frameUnknown f) := by
  simp only [decodeFrame, frameTypeByte?_of_length hf, frameTypeOf]
  by_cases h2 : f.getD 4 0#8 = 0x02#8
  · simp only [h2, if_true]
  by_cases h3 : f.getD 4 0#8 = 0x03#8
  · simp only [h3]; rfl
  by_cases h1 : f.getD 4 0#8 = 0x01#8
  · simp only [h1]; rfl
  · simp only [h1, h2, h3, if_false]

/-- A well-formed row of an unknown type is a whole frame whose type byte is none of the three known ones. -/
theorem frameUnknown_wf {m : Nat} {f : Bytes} (h : (Instr.frameUnknown f).wf m = true) :
    f.length = 300 ∧ f.getD 4 0#8 ≠ 0x01#8 ∧ f.getD 4 0#8 ≠ 0x02#8 ∧ f.getD 4 0#8 ≠ 0x03#8 := by
  simp only [Instr.wf] at h
  split at h
  · next t ht =>
    obtain ⟨hf, rfl⟩ := frameTypeByte?_eq_some_iff.mp ht
    simpa [hf, and_assoc] using h
  · cases h

/-! ## The statements -/

/-- Settles O50: a well-formed operand is an assembled one, and its assembly undoes its encoding. -/
theorem decodeOfEncodeIsTheRequest : Obligations.DecodeOfEncodeIsTheRequest := by
  intro m i hm hreq hwf
  cases i with
  | append o =>
    obtain ⟨c, rfl, hc⟩ := eq_assembled_of_chunkWf hwf
    exact congrArg (Except.ok ∘ Instr.append) (assembleSeq_encode (hc.trans_lt hm))
  | isReady o =>
    obtain rfl := eq_assembled_of_noOperandWf hwf
    rfl
  | take o =>
    obtain rfl := eq_assembled_of_noOperandWf hwf
    rfl
  | reset o =>
    obtain rfl := eq_assembled_of_noOperandWf hwf
    rfl
  | checksum o =>
    obtain ⟨a, rfl, ha⟩ := eq_assembled_of_checksumWf hwf
    exact congrArg (Except.ok ∘ Instr.checksum) (assembleChecksum_encode ha)
  | validate o =>
    obtain ⟨f, rfl, hf⟩ := eq_assembled_of_anyFrameWf hwf
    exact congrArg (Except.ok ∘ Instr.validate) (assembleSeq_encode hf)
  | decode o =>
    obtain ⟨f, rfl, hf⟩ := eq_assembled_of_wholeFrameWf hwf
    exact congrArg (Except.ok ∘ Instr.decode) (assembleSeq_encode (by rw [hf]; decide))
  | ingest o =>
    obtain ⟨c, rfl, hc⟩ := eq_assembled_of_chunkWf hwf
    exact congrArg (Except.ok ∘ Instr.ingest) (assembleSeq_encode (hc.trans_lt hm))
  | reservedOp code tail =>
    have hcode : ReservedRequest ⟨code, tail⟩ := by simpa [Instr.wf, reservedCode] using hwf
    exact congrArg Except.ok (decodeRequest_reserved hcode)
  | frameCellinfo f | frameDeviceinfo f | frameSettings f | frameUnknown f => cases hreq

/-- Settles O51: each operand's encoding undoes its assembly, malformed or not. -/
theorem encodeOfDecodeIsTheRequest : Obligations.EncodeOfDecodeIsTheRequest := by
  intro q
  induction q using request_cases with
  | append tail => exact congrArg (0x01#8 :: ·) (encode_assembleSeq tail)
  | isReady tail => exact congrArg (0x02#8 :: ·) (encode_assembleNone tail)
  | take tail => exact congrArg (0x03#8 :: ·) (encode_assembleNone tail)
  | reset tail => exact congrArg (0x04#8 :: ·) (encode_assembleNone tail)
  | checksum tail => exact congrArg (0x05#8 :: ·) (encode_assembleChecksum tail)
  | validate tail => exact congrArg (0x06#8 :: ·) (encode_assembleSeq tail)
  | decode tail => exact congrArg (0x07#8 :: ·) (encode_assembleSeq tail)
  | ingest tail => exact congrArg (0x08#8 :: ·) (encode_assembleSeq tail)
  | reserved q hq => rw [decodeRequest_reserved hq]; rfl

/-- Settles O52: the row a frame decodes to is chosen by byte 4, and a well-formed row's frame has the row's byte
there. -/
theorem frameRowsRoundTrip : Obligations.FrameRowsRoundTrip := by
  refine ⟨fun f hf => ⟨_, decodeFrame_of_length hf, ?_, ?_, rfl⟩, fun m i hrow hwf => ?_, fun f hf => ?_⟩
  · split_ifs <;> rfl
  · split_ifs <;> rfl
  · cases i with
    | frameCellinfo f =>
      obtain ⟨hf, ht⟩ := frameTypeByte?_eq_some_iff.mp (of_decide_eq_true hwf)
      rw [encode, decodeFrame_of_length hf, ht, if_pos rfl]
    | frameDeviceinfo f =>
      obtain ⟨hf, ht⟩ := frameTypeByte?_eq_some_iff.mp (of_decide_eq_true hwf)
      rw [encode, decodeFrame_of_length hf, ht, if_neg (by decide), if_pos rfl]
    | frameSettings f =>
      obtain ⟨hf, ht⟩ := frameTypeByte?_eq_some_iff.mp (of_decide_eq_true hwf)
      rw [encode, decodeFrame_of_length hf, ht, if_neg (by decide), if_neg (by decide), if_pos rfl]
    | frameUnknown f =>
      obtain ⟨hf, h1, h2, h3⟩ := frameUnknown_wf hwf
      rw [encode, decodeFrame_of_length hf, if_neg h2, if_neg h3, if_neg h1]
    | append o | isReady o | take o | reset o | checksum o | validate o | decode o | ingest o | reservedOp o t =>
      cases hrow
  · rw [decodeFrame, frameTypeByte?_of_length_ne hf]

/-- Settles O53: each request is written out, so its decoding is a computation. -/
theorem writtenRequestsDecode : Obligations.WrittenRequestsDecode := by
  refine ⟨?_, ?_, ?_, ?_, ?_, ?_, ?_⟩ <;> decide

end Sys2Proof.Machine
end

section
/-! SUPPORT. What every step keeps: the state's frame, the invariant of a block, the responses already given
(10_state.md R26, 20_memory.md R44, R47, R54, 40_frame_parser.md R104). -/

namespace Sys2Proof.Machine

/-! ## The step, and the frame of an instruction -/

/-- Everything a step can do: it holds the state, or it runs the oldest request. -/
theorem step_next {s t : State} (h : step s = .next t) :
    (s.requests = [] ∧ t = s) ∨
      ∃ q qs, s.requests = q :: qs ∧ exec (decodeRequest q) { s with requests := qs } = .next t := by
  cases hs : s.requests with
  | nil =>
    rw [step_nil hs] at h
    exact .inl ⟨rfl, (Host.Outcome.next.inj h).symm⟩
  | cons q qs => exact .inr ⟨q, qs, rfl, (step_cons hs).symm.trans h⟩

/-- An instruction changes the storage, the count and the responses alone, and nothing but the responses where its
answer is not OK (60_exceptions.md R206). -/
theorem exec_next_answer {i : Instr} {s t : State} (h : exec i s = .next t) :
    ∃ b n r, t = answer s b n r ∧
      (r.status ≠ .ok → r.diag = {} ∧ r.result = .empty ∧ b = s.buf ∧ n = s.count) := by
  obtain ⟨-, ⟨c, -, -, rfl⟩ | ⟨c, -, -, ⟨-, rfl⟩ | ⟨-, rfl⟩⟩ | ⟨-, -, rfl⟩ | ⟨-, rfl⟩ | ⟨r, rfl, hr⟩⟩ := exec_next h
  case inr.inr.inr.inr =>
    refine ⟨_, _, r, rfl, fun hne => ?_⟩
    obtain ⟨hd, hx⟩ := hr.not_ok hne
    exact ⟨hd, hx, rfl, rfl⟩
  all_goals exact ⟨_, _, _, rfl, fun hne => absurd rfl hne⟩

/-- What a step keeps: the construction's descriptor and parameter, and every response already given. -/
theorem step_keeps_construction {s t : State} (h : step s = .next t) :
    t.variant = s.variant ∧ t.maxChunk = s.maxChunk ∧ s.responses <+: t.responses := by
  obtain ⟨-, rfl⟩ | ⟨q, qs, -, h⟩ := step_next h
  · exact ⟨rfl, rfl, List.prefix_refl _⟩
  · obtain ⟨b, n, r, rfl, -⟩ := exec_next_answer h
    exact ⟨rfl, rfl, List.prefix_append _ _⟩

/-! ## The invariant -/

theorem State.Inv.answer {s : State} (h : s.Inv) {b : Memory} (hb : b.wf) {n : Nat}
    (hn : n ≤ Config.bufMax + s.maxChunk.val) (r : Response) : (answer s b n r).Inv := ⟨h.variant_wf, hb, hn⟩

/-- The waiting requests are no part of the invariant. -/
theorem State.Inv.setRequests {s : State} (h : s.Inv) (qs : List Request) : ({ s with requests := qs } : State).Inv :=
  ⟨h.variant_wf, h.buf_wf, h.count_le⟩

/-- An accepted chunk keeps the count's bound: at most `BUF_MAX` bytes survive steps S1 and S2. -/
theorem keptCount_add_le {c : Bytes} {s : State} (hc : c.length ≤ s.maxChunk.val) :
    keptCount c s + c.length ≤ Config.bufMax + s.maxChunk.val := Nat.add_le_add (keptCount_le c s) hc

theorem exec_keeps_inv {i : Instr} {s t : State} (hs : s.Inv) (h : exec i s = .next t) : t.Inv := by
  obtain ⟨-, ⟨c, -, hc, rfl⟩ | ⟨c, -, hc, ⟨-, rfl⟩ | ⟨-, rfl⟩⟩ | ⟨-, -, rfl⟩ | ⟨-, rfl⟩ | ⟨r, rfl, -⟩⟩ := exec_next h
  · exact hs.answer (storeChunk_wf c hs.buf_wf _) (keptCount_add_le hc) _
  · exact hs.answer (storeChunk_wf c hs.buf_wf _) (keptCount_add_le hc) _
  · exact hs.answer (storeChunk_wf c hs.buf_wf _) (Nat.zero_le _) _
  · exact hs.answer hs.buf_wf (Nat.zero_le _) _
  · exact hs.answer hs.buf_wf (Nat.zero_le _) _
  · exact hs.answer hs.buf_wf hs.count_le _

theorem construct_inv {V : VariantDescriptor} (hV : descriptorWf V = true) (m : Fin Config.lenBound) {b : Memory}
    (hb : b.wf) : (State.construct V m b).Inv := ⟨hV, hb, Nat.zero_le _⟩

theorem resetVariant_wf : descriptorWf Config.resetVariant = true := by decide

/-! ## The statements -/

/-- Settles O8: at most 320 bytes survive the guard, so a chunk of at most `MAX_CHUNK` bytes keeps the bound. -/
theorem invariantKeptByEveryStep : Obligations.InvariantKeptByEveryStep := by
  intro s t hs h
  obtain ⟨-, rfl⟩ | ⟨q, qs, -, h⟩ := step_next h
  · exact hs
  · exact exec_keeps_inv (hs.setRequests qs) h

/-- Settles O3, by induction on the number of steps. -/
theorem constructionAndAnswersKeptAlongRuns : Obligations.ConstructionAndAnswersKeptAlongRuns := by
  intro n
  induction n with
  | zero =>
    intro s t h
    cases h
    exact ⟨rfl, rfl, List.prefix_refl _⟩
  | succ n ih =>
    intro s t h
    obtain ⟨u, hu, ht⟩ := step_of_run_succ h
    obtain ⟨hv, hm, hr⟩ := step_keeps_construction hu
    obtain ⟨hv', hm', hr'⟩ := ih u t ht
    exact ⟨hv'.trans hv, hm'.trans hm, hr.trans hr'⟩

/-- Settles O35: of the six things an instruction can do, five belong to the four instructions that are left out. -/
theorem pureOperationsChangeNoState : Obligations.PureOperationsChangeNoState := by
  intro i s t h happ hing htake hreset
  obtain ⟨-, ⟨c, rfl, -⟩ | ⟨c, rfl, -⟩ | ⟨rfl, -⟩ | ⟨rfl, -⟩ | ⟨r, rfl, -⟩⟩ := exec_next h
  · exact absurd rfl (happ _)
  · exact absurd rfl (hing _)
  · exact absurd rfl (htake _)
  · exact absurd rfl (hreset _)
  · exact ⟨r, rfl⟩

/-- Settles O1. -/
theorem stepRunsOldestRequest : Obligations.StepRunsOldestRequest :=
  ⟨fun _ _ _ h => step_cons h, fun _ h => step_nil h⟩

/-- Settles O4: the construction and every meaning start with the check of the descriptor. -/
theorem illFormedDescriptorIsRefused : Obligations.IllFormedDescriptorIsRefused := by
  refine ⟨fun V m b hV => onBuilt_of_not_wf (s := State.construct V m b) hV _, fun i s hs => ?_⟩
  cases i <;> exact onBuilt_of_not_wf hs _

/-- Settles O6. -/
theorem constructionGivesAnIdleBlock : Obligations.ConstructionGivesAnIdleBlock := by
  intro V m b hV
  exact ⟨State.construct V m b, onBuilt_of_wf (s := State.construct V m b) hV _, rfl, rfl, rfl, rfl, rfl, rfl, rfl, rfl⟩

/-- Settles O7. -/
theorem invariantHoldsWhenBuilt : Obligations.InvariantHoldsWhenBuilt :=
  ⟨fun _ m _ hV hb => construct_inv hV m hb, construct_inv resetVariant_wf _ nil_wf⟩

/-- Settles O12. -/
theorem takeBeforeReadinessKeepsThePartialFrame : Obligations.TakeBeforeReadinessKeepsThePartialFrame := by
  intro s hw hs
  exact (execTake_assembled hw).trans (if_neg (Nat.not_le.mpr hs))

/-- Settles O58: of the row of blocks a step sets one entry, to what the block there steps to. -/
theorem instancesShareNoState : Obligations.InstancesShareNoState := by
  intro blocks after k h
  unfold stepInstance at h
  cases hk : blocks[k]? with
  | none =>
    rw [hk] at h
    cases h
    exact ⟨rfl, fun _ _ => rfl, nofun⟩
  | some s =>
    simp only [hk] at h
    cases hs : step s with
    | next t =>
      simp only [hs] at h
      cases h
      refine ⟨List.length_set, fun j hj => List.getElem?_set_ne (Ne.symm hj), fun u hu => ?_⟩
      cases hu
      obtain ⟨hlt, -⟩ := List.getElem?_eq_some_iff.mp hk
      exact ⟨t, hs, List.getElem?_set_self hlt⟩
    | fault r => cases r
    | refused r =>
      simp only [hs] at h
      cases h

end Sys2Proof.Machine
end

section
/-! SUPPORT. What a request answers: its status, read off its bytes, and its flags (30_encoding.md R72, R73, R78,
60_exceptions.md R200-R207). -/

namespace Sys2Proof.Machine

/-! ## The status of a request -/

/-- The outcome is a next state that gives one more response, of this status. -/
def AnswersWith (s : State) (o : Host.Outcome State Fault Refusal) (st : Status) : Prop :=
  ∃ (t : State) (r : Response), o = .next t ∧ t.responses = s.responses ++ [r] ∧ r.status = st

theorem answersWith_next {s : State} {b : Memory} {n : Nat} {r : Response} {st : Status} (h : r.status = st) :
    AnswersWith s (.next (answer s b n r)) st := ⟨_, r, rfl, rfl, h⟩

/-- The request's bytes decide the outcome's status (60_exceptions.md R207, checks 1 to 3). -/
structure StatusFollowsBytes (s : State) (q : Request) (o : Host.Outcome State Fault Refusal) : Prop where
  reserved : ReservedRequest q → AnswersWith s o .badOp
  wellFormed : WellFormedRequest s.maxChunk.val q → AnswersWith s o .ok
  otherwise : ¬ ReservedRequest q → ¬ WellFormedRequest s.maxChunk.val q → AnswersWith s o .errOperand

/-- The operand is assembled, and within the operation's range. -/
def operandAccepted {α : Type} (accepts : α → Bool) : Operand α → Bool
  | .assembled a => accepts a
  | .malformed _ => false

/-- A request of a defined code, whose operand is accepted exactly where its bytes are well formed. -/
theorem onRequest_status {α : Type} {s : State} {q : Request} {o : Operand α} {accepts : α → Bool}
    {run : α → Host.Outcome State Fault Refusal} (hw : descriptorWf s.variant = true) (hq : ¬ ReservedRequest q)
    (hacc : operandAccepted accepts o = true ↔ WellFormedRequest s.maxChunk.val q)
    (hrun : ∀ a, accepts a = true → AnswersWith s (run a) .ok) :
    StatusFollowsBytes s q (onRequest o accepts s run) := by
  refine ⟨fun h => absurd h hq, fun h => ?_, fun _ h => ?_⟩ <;> rw [← hacc] at h
  · cases o with
    | assembled a =>
      have ha : accepts a = true := h
      rw [onRequest_accepted hw ha]
      exact hrun a ha
    | malformed tail => cases h
  · rw [Bool.not_eq_true] at h
    cases o with
    | assembled a =>
      have ha : accepts a = false := h
      rw [onRequest_rejected hw ha]
      exact answersWith_next rfl
    | malformed tail =>
      rw [onRequest_malformed hw]
      exact answersWith_next rfl

/-! Where the length fields agree with the request's length, and the operand they then give (30_encoding.md R70,
R73). -/

theorem requestLen_cons (op lo hi : Byte) (data : Bytes) : requestLen ⟨op, lo :: hi :: data⟩ = (lenField lo hi).toNat :=
  (lenField_toNat lo hi).symm

theorem requestN_cons (op lo hi nlo nhi : Byte) (data : Bytes) :
    requestN ⟨op, lo :: hi :: nlo :: nhi :: data⟩ = (lenField nlo nhi).toNat :=
  (lenField_toNat nlo nhi).symm

theorem operandAccepted_assembleSeq (accepts : Bytes → Bool) (op : Byte) (tail : Bytes) :
    operandAccepted accepts (assembleSeq tail) = true ↔
      2 ≤ tail.length ∧ tail.length = 2 + requestLen ⟨op, tail⟩ ∧ accepts (tail.drop 2) = true := by
  match tail with
  | [] | [_] => simp [assembleSeq, operandAccepted]
  | lo :: hi :: data =>
    have hlen : (lo :: hi :: data).length = 2 + requestLen ⟨op, lo :: hi :: data⟩ ↔
        data.length = (lenField lo hi).toNat := by
      rw [requestLen_cons, List.length_cons, List.length_cons]
      omega
    rw [hlen, assembleSeq]
    split
    · next h => simp [h, operandAccepted]
    · next h => simp [h, operandAccepted]

theorem operandAccepted_assembleChecksum (op : Byte) (tail : Bytes) :
    operandAccepted checksumAccepted (assembleChecksum tail) = true ↔
      4 ≤ tail.length ∧ tail.length = 4 + requestLen ⟨op, tail⟩ ∧ requestN ⟨op, tail⟩ ≤ requestLen ⟨op, tail⟩ := by
  match tail with
  | [] | [_] | [_, _] | [_, _, _] => simp [assembleChecksum, operandAccepted]
  | lo :: hi :: nlo :: nhi :: data =>
    have hlen : (lo :: hi :: nlo :: nhi :: data).length = 4 + (lenField lo hi).toNat ↔
        data.length = (lenField lo hi).toNat := by
      simp only [List.length_cons]
      omega
    rw [requestN_cons, requestLen_cons, hlen, assembleChecksum]
    split
    · next h => simp [h, operandAccepted, checksumAccepted]
    · next h => simp [h, operandAccepted]

theorem operandAccepted_assembleNone (tail : Bytes) :
    operandAccepted nothingAccepted (assembleNone tail) = true ↔ tail = [] := by
  cases tail <;> simp [operandAccepted, nothingAccepted]

/-- An accepted length, as the well-formedness of a request states it. -/
theorem and_drop_length_iff {tail : Bytes} {n : Nat} {P : Nat → Prop} :
    (2 ≤ tail.length ∧ tail.length = 2 + n ∧ P (tail.drop 2).length) ↔
      (2 ≤ tail.length ∧ tail.length = 2 + n ∧ P n) := by
  refine and_congr_right fun _ => and_congr_right fun h => ?_
  rw [List.length_drop, h, Nat.add_sub_cancel_left]

theorem chunk_wellFormed_iff (s : State) (op : Byte) (tail : Bytes) :
    operandAccepted (chunkAccepted s) (assembleSeq tail) = true ↔
      2 ≤ tail.length ∧ tail.length = 2 + requestLen ⟨op, tail⟩ ∧ requestLen ⟨op, tail⟩ ≤ s.maxChunk.val := by
  rw [operandAccepted_assembleSeq _ op, chunkAccepted, decide_eq_true_iff]
  exact and_drop_length_iff (P := fun n => n ≤ s.maxChunk.val)

theorem wholeFrame_wellFormed_iff (op : Byte) (tail : Bytes) :
    operandAccepted wholeFrameAccepted (assembleSeq tail) = true ↔
      2 ≤ tail.length ∧ tail.length = 2 + requestLen ⟨op, tail⟩ ∧ requestLen ⟨op, tail⟩ = 300 := by
  rw [operandAccepted_assembleSeq _ op, wholeFrameAccepted, decide_eq_true_iff]
  exact and_drop_length_iff (P := fun n => n = 300)

theorem anyFrame_wellFormed_iff (op : Byte) (tail : Bytes) :
    operandAccepted anyFrameAccepted (assembleSeq tail) = true ↔
      2 ≤ tail.length ∧ tail.length = 2 + requestLen ⟨op, tail⟩ := by
  rw [operandAccepted_assembleSeq _ op]
  simp [anyFrameAccepted]

theorem reservedCode_iff {code : Byte} : reservedCode code = true ↔ code.toNat = 0 ∨ 9 ≤ code.toNat := by
  simp [reservedCode]

/-- A well-formed request has a defined code. -/
theorem not_reserved_of_wellFormed {m : Nat} {q : Request} (h : WellFormedRequest m q) : ¬ ReservedRequest q := by
  intro hr
  unfold ReservedRequest at hr
  unfold WellFormedRequest at h
  split at h
  case h_9 => exact h
  all_goals omega

/-- Every request of a built block is answered, with the status its bytes decide. -/
theorem exec_request_status {s : State} (hw : descriptorWf s.variant = true) (q : Request) :
    StatusFollowsBytes s q (exec (decodeRequest q) s) := by
  induction q using request_cases with
  | append tail =>
    refine onRequest_status hw (by simp) (chunk_wellFormed_iff s _ tail) fun c _ => ?_
    rw [replyOk_eq, emit_accumulate_eq_answer]
    exact answersWith_next rfl
  | isReady tail =>
    exact onRequest_status hw (by simp) (operandAccepted_assembleNone tail) fun _ _ => ⟨_, _, rfl, rfl, rfl⟩
  | take tail =>
    refine onRequest_status hw (by simp) (operandAccepted_assembleNone tail) fun _ _ => ?_
    split <;> exact ⟨_, _, rfl, rfl, rfl⟩
  | reset tail =>
    exact onRequest_status hw (by simp) (operandAccepted_assembleNone tail) fun _ _ => ⟨_, _, rfl, rfl, rfl⟩
  | checksum tail =>
    exact onRequest_status hw (by simp) (operandAccepted_assembleChecksum _ tail) fun _ _ => ⟨_, _, rfl, rfl, rfl⟩
  | validate tail =>
    exact onRequest_status hw (by simp) (anyFrame_wellFormed_iff _ tail) fun _ _ => ⟨_, _, rfl, rfl, rfl⟩
  | decode tail =>
    exact onRequest_status hw (by simp) (wholeFrame_wellFormed_iff _ tail) fun _ _ => ⟨_, _, rfl, rfl, rfl⟩
  | ingest tail =>
    refine onRequest_status hw (by simp) (chunk_wellFormed_iff s _ tail) fun c _ => ?_
    dsimp only
    split
    · rw [replyOk_eq, emit_clear_accumulate_eq_answer]
      exact answersWith_next rfl
    · rw [replyOk_eq, emit_accumulate_eq_answer]
      exact answersWith_next rfl
  | reserved q hq =>
    rw [decodeRequest_reserved hq, execReservedOp_reserved hw (reservedCode_iff.mpr hq)]
    exact ⟨fun _ => answersWith_next rfl, fun h => absurd hq (not_reserved_of_wellFormed h), fun h => absurd hq h⟩

theorem exec_request_answers {s : State} (hw : descriptorWf s.variant = true) (q : Request) :
    ∃ st, AnswersWith s (exec (decodeRequest q) s) st := by
  have h := exec_request_status hw q
  by_cases hr : ReservedRequest q
  · exact ⟨_, h.reserved hr⟩
  by_cases hq : WellFormedRequest s.maxChunk.val q
  · exact ⟨_, h.wellFormed hq⟩
  · exact ⟨_, h.otherwise hr hq⟩

/-! ## The flags of a response (60_exceptions.md R201, R207) -/

theorem accumulateDiag_excludes (c : Bytes) (s : State) :
    ¬ ((accumulateDiag c s).overflow = true ∧ (accumulateDiag c s).resync = true) := by
  rw [accumulateDiag_spec]
  simp only [decide_eq_true_eq]
  omega

theorem accumulateDiag_overflow_of_le {c : Bytes} {s : State} (h : s.count ≤ 320) :
    (accumulateDiag c s).overflow = false := by
  rw [accumulateDiag_spec]
  exact decide_eq_false (Nat.not_lt.mpr h)

/-- The flags a response may carry, by the instruction it answers. -/
structure FlagsAllowed (i : Instr) (d : Diag) : Prop where
  overflow_resync : ¬ (d.overflow = true ∧ d.resync = true)
  mismatch_unknown : ¬ (d.csumMismatch = true ∧ d.unknownType = true)
  accumulated : d.overflow = true ∨ d.resync = true →
    (∃ c, i = .append (.assembled c)) ∨ (∃ c, i = .ingest (.assembled c))
  mismatch : d.csumMismatch = true → ∃ c, i = .ingest (.assembled c)
  unknown : d.unknownType = true →
    (∃ f, i = .decode (.assembled f)) ∨ (∃ c, i = .ingest (.assembled c)) ∨ ∃ f, i = .frameUnknown f

/-- The flags of a chunk's steps are allowed to the two instructions that accumulate. -/
theorem flagsAllowed_accumulate {i : Instr} (c : Bytes) (s : State)
    (hi : (∃ c, i = .append (.assembled c)) ∨ (∃ c, i = .ingest (.assembled c))) :
    FlagsAllowed i (accumulateDiag c s) :=
  ⟨accumulateDiag_excludes c s, nofun, fun _ => hi, nofun, nofun⟩

/-- With a taken frame's flags they are allowed to INGEST. -/
theorem flagsAllowed_ingest (c : Bytes) (s : State) (V : VariantDescriptor) (f : Bytes) :
    FlagsAllowed (.ingest (.assembled c)) ((accumulateDiag c s).union (ingestFrame V f).1) := by
  obtain ⟨ho, hr, hcu⟩ := ingestFrame_flags V f
  refine ⟨?_, hcu, fun _ => .inr ⟨c, rfl⟩, fun _ => ⟨c, rfl⟩, fun _ => .inr (.inl ⟨c, rfl⟩)⟩
  simpa [Diag.union, ho, hr] using accumulateDiag_excludes c s

/-- A response that comes with no other change. -/
theorem PureResponse.flagsAllowed {i : Instr} {r : Response} (h : PureResponse i r) : FlagsAllowed i r.diag where
  overflow_resync := by simp [h.overflow]
  mismatch_unknown := by simp [h.csumMismatch]
  accumulated := by simp [h.overflow, h.resync]
  mismatch := by simp [h.csumMismatch]
  unknown hu := (h.unknownType hu).imp_right .inr

theorem exec_next_flagsAllowed {i : Instr} {s t : State} (h : exec i s = .next t) :
    ∃ r, t.responses = s.responses ++ [r] ∧ FlagsAllowed i r.diag := by
  obtain ⟨-, ⟨c, rfl, -, rfl⟩ | ⟨c, rfl, -, ⟨-, rfl⟩ | ⟨-, rfl⟩⟩ | ⟨rfl, -, rfl⟩ | ⟨rfl, rfl⟩ | ⟨r, rfl, hr⟩⟩ :=
    exec_next h
  · exact ⟨_, rfl, flagsAllowed_accumulate c s (.inl ⟨c, rfl⟩)⟩
  · exact ⟨_, rfl, flagsAllowed_accumulate c s (.inr ⟨c, rfl⟩)⟩
  · exact ⟨_, rfl, flagsAllowed_ingest c s _ _⟩
  · exact ⟨_, rfl, nofun, nofun, nofun, nofun, nofun⟩
  · exact ⟨_, rfl, nofun, nofun, nofun, nofun, nofun⟩
  · exact ⟨r, rfl, hr.flagsAllowed⟩

/-! ## A host that issues no APPEND (44_pipeline.md R185) -/

/-- Only a request with code 01 is an APPEND: its bytes are those of the instruction. -/
theorem op_of_decodeRequest_append {q : Request} {o : Operand Bytes} (h : decodeRequest q = .append o) :
    q.op = 0x01#8 := by
  have he := encodeOfDecodeIsTheRequest q
  rw [h] at he
  exact (List.cons.inj he).1.symm

/-- An instruction takes no waiting request. -/
theorem exec_next_requests {i : Instr} {s t : State} (h : exec i s = .next t) : t.requests = s.requests := by
  obtain ⟨b, n, r, rfl, -⟩ := exec_next_answer h
  rfl

/-- What a run without APPEND keeps: fewer than 300 bytes, and no OVERFLOW in any new response. -/
theorem exec_next_below_frame {i : Instr} {s t : State} (h : exec i s = .next t) (hi : ∀ o, i ≠ .append o)
    (hs : s.count < 300) :
    t.count < 300 ∧ ∃ r, t.responses = s.responses ++ [r] ∧ r.diag.overflow = false := by
  have hov (c : Bytes) : (accumulateDiag c s).overflow = false := accumulateDiag_overflow_of_le (by omega)
  obtain ⟨-, ⟨c, rfl, -⟩ | ⟨c, -, -, ⟨hlt, rfl⟩ | ⟨-, rfl⟩⟩ | ⟨-, -, rfl⟩ | ⟨-, rfl⟩ | ⟨r, rfl, hr⟩⟩ := exec_next h
  · exact absurd rfl (hi _)
  · exact ⟨hlt, _, rfl, hov c⟩
  · refine ⟨Nat.zero_lt_succ _, _, rfl, ?_⟩
    simp [Diag.union, hov, ingestFrame_flags]
  · exact ⟨Nat.zero_lt_succ _, _, rfl, rfl⟩
  · exact ⟨Nat.zero_lt_succ _, _, rfl, rfl⟩
  · exact ⟨hs, r, rfl, hr.overflow⟩

/-! ## The statements -/

/-- Settles O2: the request's bytes decide that there is an answer, and the frame of an instruction what it leaves. -/
theorem everyRequestIsAnsweredOnce : Obligations.EveryRequestIsAnsweredOnce := by
  intro s q qs hw hs
  obtain ⟨st, t, r, ht, hr, -⟩ := exec_request_answers (s := { s with requests := qs }) hw q
  refine ⟨t, r, (step_cons hs).trans ht, hr, ?_⟩
  obtain ⟨b, n, r', rfl, hfail⟩ := exec_next_answer ht
  obtain rfl : r' = r := by simpa using hr
  exact ⟨rfl, rfl, rfl, hfail⟩

/-- Settles O22, by induction on the number of steps. -/
theorem noOverflowWithoutAppend : Obligations.NoOverflowWithoutAppend := by
  intro n
  induction n with
  | zero =>
    intro s t _ hs h
    cases h
    exact ⟨hs, [], (List.append_nil _).symm, List.forall_mem_nil _⟩
  | succ n ih =>
    intro s t hops hs h
    obtain ⟨u, hu, ht⟩ := step_of_run_succ h
    obtain ⟨-, rfl⟩ | ⟨q, qs, hq, he⟩ := step_next hu
    · exact ih u t hops hs ht
    · have hqs : ∀ q' ∈ q :: qs, q'.op ≠ 0x01#8 := hq ▸ hops
      obtain ⟨hcount, r, hr, hov⟩ := exec_next_below_frame he
        (fun o ho => hqs q List.mem_cons_self (op_of_decodeRequest_append ho)) hs
      have hops' : ∀ q' ∈ u.requests, q'.op ≠ 0x01#8 := by
        rw [exec_next_requests he]
        exact fun q' hq' => hqs q' (List.mem_cons_of_mem q hq')
      obtain ⟨hcount', rs, hrs, hov'⟩ := ih u t hops' hcount ht
      refine ⟨hcount', r :: rs, ?_, List.forall_mem_cons.mpr ⟨hov, hov'⟩⟩
      rw [hrs, hr, List.append_assoc, List.singleton_append]

/-- Settles O54: the request's code is reserved, or the term's code is defined and no bytes stand for the term. -/
theorem reservedCodeAnswersBadOp : Obligations.ReservedCodeAnswersBadOp := by
  refine ⟨fun s q hw hq => ⟨decodeRequest_reserved hq, ?_⟩, fun s code tail hw hlo hhi => ?_⟩
  · exact execReservedOp_reserved hw (reservedCode_iff.mpr hq) q.tail
  · have hcode : ¬ reservedCode code = true := by rw [reservedCode_iff]; omega
    exact (onBuilt_of_wf hw _).trans (if_neg hcode)

/-- Settles O55: the three conditions are exclusive and cover every request, so each status has exactly one. -/
theorem statusIsDecidedByTheRequestBytes : Obligations.StatusIsDecidedByTheRequestBytes := by
  intro s q hw
  have h := exec_request_status hw q
  by_cases hr : ReservedRequest q
  · have hnot : ¬ WellFormedRequest s.maxChunk.val q := fun hq => not_reserved_of_wellFormed hq hr
    obtain ⟨t, r, ht, hresp, hst⟩ := h.reserved hr
    exact ⟨t, r, ht, hresp, by simp [hst, hr], by simp [hst, hr], by simp [hst, hnot]⟩
  by_cases hq : WellFormedRequest s.maxChunk.val q
  · obtain ⟨t, r, ht, hresp, hst⟩ := h.wellFormed hq
    exact ⟨t, r, ht, hresp, by simp [hst, hr], by simp [hst, hq], by simp [hst, hq]⟩
  · obtain ⟨t, r, ht, hresp, hst⟩ := h.otherwise hr hq
    exact ⟨t, r, ht, hresp, by simp [hst, hr], by simp [hst, hr, hq], by simp [hst, hq]⟩

/-- Settles O56, one operation at a time: each malformed operand, then each one out of its range. -/
theorem unacceptedOperandsAnswerErrOperand : Obligations.UnacceptedOperandsAnswerErrOperand := by
  rintro s i hw
    (⟨tail, rfl | rfl | rfl | rfl | rfl | rfl | rfl | rfl⟩ | ⟨c, hc, rfl | rfl⟩ | ⟨a, ha, rfl⟩ | ⟨f, hf, rfl⟩)
  · exact execAppend_malformed hw tail
  · exact execIsReady_malformed hw tail
  · exact execTake_malformed hw tail
  · exact execReset_malformed hw tail
  · exact execChecksum_malformed hw tail
  · exact execValidate_malformed hw tail
  · exact execDecode_malformed hw tail
  · exact execIngest_malformed hw tail
  · exact execAppend_rejected hw hc
  · exact execIngest_rejected hw hc
  · exact execChecksum_rejected hw ha
  · exact execDecode_rejected hw hf

/-- Settles O57: an instruction gives one response, and its flags are among those allowed to it. -/
theorem diagnosticFlagsExcludeEachOther : Obligations.DiagnosticFlagsExcludeEachOther := by
  intro i s t r h hr
  obtain ⟨r', hr', hflags⟩ := exec_next_flagsAllowed h
  obtain rfl : r' = r := by simpa using hr'.symm.trans hr
  exact ⟨hflags.overflow_resync, hflags.mismatch_unknown, hflags.accumulated, hflags.mismatch, hflags.unknown⟩

end Sys2Proof.Machine
end

section
/-! SUPPORT. What the 300 stored bytes stand for: two blocks that differ in undefined bytes alone cannot be told apart,
and the block refines the document's growing buffer (10_state.md R20, R21, R28, R30). -/

namespace Sys2Proof.Machine

/-! ## Blocks that differ in undefined bytes alone -/

/-- The flags of APPEND's steps are a matter of the count. -/
theorem accumulateDiag_congr (c : Bytes) {s t : State} (h : t.count = s.count) :
    accumulateDiag c t = accumulateDiag c s := by
  rw [accumulateDiag_spec, accumulateDiag_spec, h]

section
variable {s t : State} (h : s.Alike t)
include h

theorem State.Alike.setRequests (qs : List Request) :
    ({ s with requests := qs } : State).Alike { t with requests := qs } :=
  ⟨h.count_eq, h.variant_eq, h.maxChunk_eq, rfl, h.responses_eq, h.bytes_eq⟩

theorem State.Alike.emit (r : Response) : (emit s r).Alike (emit t r) :=
  ⟨h.count_eq, h.variant_eq, h.maxChunk_eq, h.requests_eq, congrArg (· ++ [r]) h.responses_eq, h.bytes_eq⟩

/-- A cleared block defines no byte at all. -/
theorem State.Alike.clearCount : (clearCount s).Alike (clearCount t) :=
  ⟨rfl, h.variant_eq, h.maxChunk_eq, h.requests_eq, h.responses_eq,
    fun p hp => absurd hp (by rw [clearCount_count, Nat.zero_min]; exact Nat.not_lt_zero p)⟩

theorem State.Alike.keptCount_eq (c : Bytes) : keptCount c t = keptCount c s := by
  unfold keptCount
  rw [h.count_eq]

theorem State.Alike.ready_eq : t.ready = s.ready := by rw [Machine.ready_eq, Machine.ready_eq, h.count_eq]

/-- A byte defined after the chunk is the chunk's, or was defined before it. -/
theorem State.Alike.accumulate (hs : s.buf.wf) (ht : t.buf.wf) (c : Bytes) :
    (accumulate c s).Alike (accumulate c t) := by
  refine ⟨?_, by simp [h.variant_eq], by simp [h.maxChunk_eq], by simp [h.requests_eq], by simp [h.responses_eq],
    fun p hp => ?_⟩
  · rw [accumulate_count, accumulate_count, h.keptCount_eq]
  · rw [accumulate_read hs, accumulate_read ht, h.keptCount_eq]
    rw [accumulate_count] at hp
    split
    · rfl
    · next hout =>
      have hkept := keptCount_le_count c s
      exact h.bytes_eq p (by omega)

/-- A block that is ready defines all of its 300 bytes. -/
theorem State.Alike.readFrame_eq (hready : s.ready = true) : readFrame t.buf = readFrame s.buf := by
  rw [Machine.ready_eq, decide_eq_true_eq] at hready
  refine frame_ext (readFrame_length _) (readFrame_length _) fun p hp => ?_
  rw [readFrame_getD _ hp, readFrame_getD _ hp]
  exact h.bytes_eq p (lt_min (hp.trans_le hready) hp)

end

/-- The second outcome answers whatever the first does, alike. -/
def OutcomeAlike (o o' : Host.Outcome State Fault Refusal) : Prop :=
  ∀ s' : State, o = .next s' → ∃ t' : State, o' = .next t' ∧ s'.Alike t'

section
variable {s t : State} (h : s.Alike t)
include h

theorem outcomeAlike_replyOk (d : Diag) (x : Result) : OutcomeAlike (replyOk s d x) (replyOk t d x) := by
  intro s' hs'
  cases hs'
  exact ⟨_, rfl, h.emit _⟩

theorem outcomeAlike_replyErrOperand : OutcomeAlike (replyErrOperand s) (replyErrOperand t) := by
  intro s' hs'
  cases hs'
  exact ⟨_, rfl, h.emit _⟩

theorem outcomeAlike_onBuilt {run run' : Host.Outcome State Fault Refusal} (hrun : OutcomeAlike run run') :
    OutcomeAlike (onBuilt s run) (onBuilt t run') := by
  intro s' hs'
  obtain ⟨hw, hs'⟩ := onBuilt_next hs'
  rw [onBuilt_of_wf (h.variant_eq ▸ hw)]
  exact hrun s' hs'

theorem outcomeAlike_onRequest {α : Type} {o : Operand α} {accepts accepts' : α → Bool}
    {run run' : α → Host.Outcome State Fault Refusal} (hacc : accepts' = accepts)
    (hrun : ∀ a, OutcomeAlike (run a) (run' a)) :
    OutcomeAlike (onRequest o accepts s run) (onRequest o accepts' t run') := by
  subst hacc
  refine outcomeAlike_onBuilt h ?_
  cases o with
  | assembled a =>
    dsimp only
    split
    · exact hrun a
    · exact outcomeAlike_replyErrOperand h
  | malformed tail => exact outcomeAlike_replyErrOperand h

theorem outcomeAlike_onFrameRow (row : FrameType) (f : Bytes) (d : Decoded) :
    OutcomeAlike (onFrameRow row f s d) (onFrameRow row f t d) := by
  refine outcomeAlike_onBuilt h ?_
  split
  · exact outcomeAlike_replyOk h _ _
  · exact nofun

/-- No instruction can tell the two blocks apart. -/
theorem exec_alike (hs : s.buf.wf) (ht : t.buf.wf) (i : Instr) : OutcomeAlike (exec i s) (exec i t) := by
  have hchunk : chunkAccepted t = chunkAccepted s := by
    funext c
    rw [chunkAccepted, chunkAccepted, h.maxChunk_eq]
  cases i with
  | append o =>
    refine outcomeAlike_onRequest h hchunk fun c => ?_
    have hacc := h.accumulate hs ht c
    rw [accumulateDiag_congr c h.count_eq, hacc.ready_eq]
    exact outcomeAlike_replyOk hacc _ _
  | isReady o =>
    refine outcomeAlike_onRequest h rfl fun _ => ?_
    rw [h.ready_eq]
    exact outcomeAlike_replyOk h _ _
  | take o =>
    refine outcomeAlike_onRequest h rfl fun _ => ?_
    rw [h.ready_eq]
    split
    · next hready =>
      rw [h.readFrame_eq hready]
      exact outcomeAlike_replyOk h.clearCount _ _
    · exact outcomeAlike_replyOk h _ _
  | reset o => exact outcomeAlike_onRequest h rfl fun _ => outcomeAlike_replyOk h.clearCount _ _
  | checksum o => exact outcomeAlike_onRequest h rfl fun _ => outcomeAlike_replyOk h _ _
  | validate o => exact outcomeAlike_onRequest h rfl fun _ => outcomeAlike_replyOk h _ _
  | decode o =>
    refine outcomeAlike_onRequest h rfl fun f => ?_
    rw [h.variant_eq]
    exact outcomeAlike_replyOk h _ _
  | ingest o =>
    refine outcomeAlike_onRequest h hchunk fun c => ?_
    have hacc := h.accumulate hs ht c
    dsimp only
    rw [accumulateDiag_congr c h.count_eq, hacc.ready_eq, h.variant_eq]
    split
    · next hready =>
      rw [hacc.readFrame_eq hready]
      exact outcomeAlike_replyOk hacc.clearCount _ _
    · exact outcomeAlike_replyOk hacc _ _
  | reservedOp code tail =>
    refine outcomeAlike_onBuilt h ?_
    split
    · intro s' hs'
      cases hs'
      exact ⟨_, rfl, h.emit _⟩
    · exact nofun
  | frameCellinfo f =>
    show OutcomeAlike (onFrameRow _ f s (decodeCellinfo s.variant f)) (onFrameRow _ f t (decodeCellinfo t.variant f))
    rw [h.variant_eq]
    exact outcomeAlike_onFrameRow h _ f _
  | frameDeviceinfo f =>
    show OutcomeAlike (onFrameRow _ f s (decodeDeviceinfo s.variant f))
      (onFrameRow _ f t (decodeDeviceinfo t.variant f))
    rw [h.variant_eq]
    exact outcomeAlike_onFrameRow h _ f _
  | frameSettings f => exact outcomeAlike_onFrameRow h _ f _
  | frameUnknown f => exact outcomeAlike_onFrameRow h _ f _

end

/-! ## The growing buffer -/

section
variable {s : State} {acc : Bytes}

/-- What a block holds is a matter of its storage and its count. -/
theorem State.Holds.emit (h : s.Holds acc) (r : Response) : (emit s r).Holds acc := ⟨h.count_eq, h.bytes_eq⟩

theorem clearCount_holds (s : State) : (clearCount s).Holds [] := ⟨rfl, fun p hp => absurd hp (by simp)⟩

theorem holds_nil (h : s.count = 0) : s.Holds [] := ⟨h, fun p hp => absurd hp (by simp)⟩

theorem State.Holds.ready_eq (h : s.Holds acc) : s.ready = decide (Config.frameLen ≤ acc.length) := by
  rw [Machine.ready_eq, h.count_eq]

/-- The document's `append`: the chunk after the bytes that survive steps S1 and S2. -/
theorem State.Holds.growAppend_eq (h : s.Holds acc) (c : Bytes) : growAppend acc c = acc.take (keptCount c s) ++ c := by
  unfold growAppend keptCount
  rw [h.count_eq]
  split
  · rw [List.take_zero, List.nil_append]
  · split
    · rw [List.take_zero, List.nil_append]
    · rw [List.take_length]

theorem State.Holds.growAppend_length (h : s.Holds acc) (c : Bytes) :
    (growAppend acc c).length = keptCount c s + c.length := by
  rw [h.growAppend_eq, List.length_append, List.length_take_of_le (h.count_eq ▸ keptCount_le_count c s)]

/-- A byte of the buffer grown by a chunk is the chunk's, or one that survived. -/
theorem State.Holds.growAppend_getD (h : s.Holds acc) (c : Bytes) (p : Nat) :
    (growAppend acc c).getD p 0#8 =
      if p < keptCount c s then acc.getD p 0#8 else c.getD (p - keptCount c s) 0#8 := by
  have hkept : (acc.take (keptCount c s)).length = keptCount c s :=
    List.length_take_of_le (h.count_eq ▸ keptCount_le_count c s)
  rw [h.growAppend_eq]
  simp only [List.getD_eq_getElem?_getD]
  split
  · next hp => rw [List.getElem?_append_left (hkept.symm ▸ hp), List.getElem?_take_of_lt hp]
  · next hp => rw [List.getElem?_append_right (by omega), hkept]

/-- APPEND's steps grow the buffer by the chunk. -/
theorem State.Holds.accumulate (h : s.Holds acc) (hs : s.buf.wf) (c : Bytes) :
    (accumulate c s).Holds (growAppend acc c) := by
  refine ⟨by rw [accumulate_count, h.growAppend_length], fun p hp => ?_⟩
  rw [h.growAppend_length] at hp
  rw [accumulate_read hs, h.growAppend_getD]
  have hkept := keptCount_le_count c s
  have hcount := h.count_eq
  by_cases hlt : p < keptCount c s
  · rw [if_neg (by omega), if_pos hlt]
    exact h.bytes_eq p (by omega)
  · rw [if_pos (by omega), if_neg hlt]

/-- The frame a ready block gives out is the buffer's first 300 bytes. -/
theorem State.Holds.readFrame_eq (h : s.Holds acc) (hlen : Config.frameLen ≤ acc.length) :
    readFrame s.buf = acc.take Config.frameLen := by
  refine frame_ext (readFrame_length _) (List.length_take_of_le hlen) fun p hp => ?_
  rw [readFrame_getD _ hp, h.bytes_eq p (lt_min (hp.trans_le hlen) hp)]
  simp only [List.getD_eq_getElem?_getD, List.getElem?_take_of_lt hp]

end

/-- The state `t` after instruction `i` of block `s`, which held `acc`: it holds the buffer grown by `i`, and gave the
growing buffer's result. -/
structure Refines (i : Instr) (s t : State) (acc : Bytes) : Prop where
  holds : t.Holds (growAfter s.maxChunk.val i acc)
  result : ∀ x : Result, growResult s.variant s.maxChunk.val i acc = some x →
    ∃ d : Diag, t.responses = s.responses ++ [⟨.ok, d, x⟩]

section
variable {i : Instr} {s t : State} {acc : Bytes}

/-- An instruction that leaves the growing buffer alone, and whose result is not the buffer's. -/
theorem refines_of_pure (h : s.Holds acc) {r : Response} (ht : t = answer s s.buf s.count r)
    (hacc : growAfter s.maxChunk.val i acc = acc) (hres : growResult s.variant s.maxChunk.val i acc = none) :
    Refines i s t acc := by
  subst ht
  refine ⟨?_, fun x hx => ?_⟩
  · rw [hacc]
    exact h.emit r
  · rw [hres] at hx
    cases hx

/-- An instruction that answers with the growing buffer's result. -/
theorem refines_of_reply {u : State} {acc' : Bytes} (hu : u.Holds acc') (hr : u.responses = s.responses)
    (hafter : growAfter s.maxChunk.val i acc = acc') {d : Diag} {x : Result}
    (hres : growResult s.variant s.maxChunk.val i acc = some x) (ht : replyOk u d x = .next t) :
    Refines i s t acc := by
  cases ht
  subst hafter
  refine ⟨hu.emit _, fun y hy => ⟨d, ?_⟩⟩
  rw [hres] at hy
  cases hy
  rw [emit_responses, hr]

end

section
variable {i : Instr} {s t : State} {acc : Bytes} (hs : s.buf.wf) (h : s.Holds acc)
include h

/-- A request: an operand that is not accepted must leave the growing buffer alone. -/
theorem refines_onRequest {α : Type} {o : Operand α} {accepts : α → Bool}
    {run : α → Host.Outcome State Fault Refusal}
    (hrej : operandAccepted accepts o = false →
      growAfter s.maxChunk.val i acc = acc ∧ growResult s.variant s.maxChunk.val i acc = none)
    (hrun : ∀ a, o = .assembled a → accepts a = true → run a = .next t → Refines i s t acc)
    (ht : onRequest o accepts s run = .next t) : Refines i s t acc := by
  obtain ⟨-, ht⟩ := onBuilt_next ht
  have herr : operandAccepted accepts o = false → replyErrOperand s = .next t → Refines i s t acc := by
    intro hacc he
    obtain ⟨hafter, hres⟩ := hrej hacc
    cases he
    exact refines_of_pure h rfl hafter hres
  cases o with
  | assembled a =>
    dsimp only at ht
    split at ht
    · next ha => exact hrun a rfl ha ht
    · next ha => exact herr (Bool.eq_false_of_not_eq_true ha) ht
  | malformed tail => exact herr rfl ht

/-- An operation that the growing buffer knows nothing of. -/
theorem refines_of_other (ht : exec i s = .next t) (happ : ∀ c, i ≠ .append c) (hing : ∀ c, i ≠ .ingest c)
    (htake : ∀ o, i ≠ .take o) (hreset : ∀ o, i ≠ .reset o) (hacc : growAfter s.maxChunk.val i acc = acc)
    (hres : growResult s.variant s.maxChunk.val i acc = none) : Refines i s t acc := by
  obtain ⟨r, hr⟩ := pureOperationsChangeNoState i s t ht happ hing htake hreset
  exact refines_of_pure h hr hacc hres

theorem isReady_refines {o : Operand Unit} (ht : exec (.isReady o) s = .next t) : Refines (.isReady o) s t acc := by
  refine refines_onRequest h (fun hrej => ?_) (fun _ ho _ hrun => ?_) ht
  · cases o with
    | assembled _ => cases hrej
    | malformed _ => exact ⟨rfl, rfl⟩
  · subst ho
    rw [h.ready_eq] at hrun
    exact refines_of_reply h rfl rfl rfl hrun

theorem take_refines {o : Operand Unit} (ht : exec (.take o) s = .next t) : Refines (.take o) s t acc := by
  refine refines_onRequest h (fun hrej => ?_) (fun _ ho _ hrun => ?_) ht
  · cases o with
    | assembled _ => cases hrej
    | malformed _ => exact ⟨rfl, rfl⟩
  · subst ho
    rw [h.ready_eq] at hrun
    by_cases hlen : Config.frameLen ≤ acc.length
    · rw [if_pos (decide_eq_true hlen), h.readFrame_eq hlen] at hrun
      exact refines_of_reply (clearCount_holds s) rfl (if_pos hlen) (if_pos hlen) hrun
    · rw [if_neg (by simpa using hlen)] at hrun
      exact refines_of_reply h rfl (if_neg hlen) (if_neg hlen) hrun

theorem reset_refines {o : Operand Unit} (ht : exec (.reset o) s = .next t) : Refines (.reset o) s t acc := by
  cases o with
  | assembled _ =>
    obtain ⟨-, ht⟩ := onBuilt_next ht
    cases ht
    exact ⟨(clearCount_holds s).emit _, nofun⟩
  | malformed tail =>
    obtain ⟨-, ht⟩ := onBuilt_next ht
    cases ht
    exact refines_of_pure h rfl rfl rfl

include hs

theorem append_refines {o : Operand Bytes} (ht : exec (.append o) s = .next t) : Refines (.append o) s t acc := by
  refine refines_onRequest h (fun hrej => ?_) (fun c ho hc hrun => ?_) ht
  · cases o with
    | assembled c =>
      have hc : ¬ c.length ≤ s.maxChunk.val := of_decide_eq_false hrej
      exact ⟨if_neg hc, if_neg hc⟩
    | malformed _ => exact ⟨rfl, rfl⟩
  · subst ho
    have hc : c.length ≤ s.maxChunk.val := of_decide_eq_true hc
    have hgrown := h.accumulate hs c
    rw [hgrown.ready_eq] at hrun
    exact refines_of_reply hgrown (accumulate_responses s c) (if_pos hc) (if_pos hc) hrun

theorem ingest_refines {o : Operand Bytes} (ht : exec (.ingest o) s = .next t) : Refines (.ingest o) s t acc := by
  refine refines_onRequest h (fun hrej => ?_) (fun c ho hc hrun => ?_) ht
  · cases o with
    | assembled c =>
      have hc : ¬ c.length ≤ s.maxChunk.val := of_decide_eq_false hrej
      exact ⟨if_neg hc, if_neg hc⟩
    | malformed _ => exact ⟨rfl, rfl⟩
  · subst ho
    have hc : c.length ≤ s.maxChunk.val := of_decide_eq_true hc
    have hgrown := h.accumulate hs c
    dsimp only at hrun
    rw [hgrown.ready_eq] at hrun
    by_cases hlen : Config.frameLen ≤ (growAppend acc c).length
    · rw [if_pos (decide_eq_true hlen), hgrown.readFrame_eq hlen, ingestFrame] at hrun
      refine refines_of_reply (clearCount_holds (accumulate c s)) (accumulate_responses s c)
        ((if_pos hc).trans (if_pos hlen)) ((if_pos hc).trans ((if_pos hlen).trans ?_)) hrun
      split <;> rfl
    · rw [if_neg (by simpa using hlen)] at hrun
      exact refines_of_reply hgrown (accumulate_responses s c) ((if_pos hc).trans (if_neg hlen))
        ((if_pos hc).trans (if_neg hlen)) hrun

theorem exec_refines (ht : exec i s = .next t) : Refines i s t acc := by
  cases i with
  | append o => exact append_refines hs h ht
  | isReady o => exact isReady_refines h ht
  | take o => exact take_refines h ht
  | reset o => exact reset_refines h ht
  | ingest o => exact ingest_refines hs h ht
  | checksum _ | validate _ | decode _ | reservedOp _ _ | frameCellinfo _ | frameDeviceinfo _ | frameSettings _
  | frameUnknown _ =>
    exact refines_of_other h ht (fun _ => nofun) (fun _ => nofun) (fun _ => nofun) (fun _ => nofun) rfl rfl

end

/-! ## The statements -/

/-- Settles O23: a step runs the same request on both blocks, and no instruction can tell them apart. -/
theorem undefinedBufferBytesAreNeverSeen : Obligations.UndefinedBufferBytesAreNeverSeen := by
  intro s t s' hs ht h hstep
  obtain ⟨hq, rfl⟩ | ⟨q, qs, hq, he⟩ := step_next hstep
  · exact ⟨t, step_nil (h.requests_eq.trans hq), h⟩
  · obtain ⟨t', ht', halike⟩ := exec_alike (h.setRequests qs) hs ht _ s' he
    exact ⟨t', (step_cons (h.requests_eq.trans hq)).trans ht', halike⟩

/-- Settles O24. -/
theorem blockRefinesTheGrowingBuffer : Obligations.BlockRefinesTheGrowingBuffer := by
  intro i s t acc hs h ht
  obtain ⟨hholds, hresult⟩ := exec_refines hs h ht
  exact ⟨hholds, hresult⟩

end Sys2Proof.Machine
end

section
/-! SUPPORT. The frame parser's count: what a chunk adds, when it falls, and the buffer's state (40_frame_parser.md
R100-R104, R109, 44_pipeline.md R182, 70_reset_and_hazards.md R222). -/

namespace Sys2Proof.Machine

/-! ## The bytes that survive steps S1 and S2 -/

theorem keptCount_of_preamble {c : Bytes} (h : StartsWithPreamble c) (s : State) : keptCount c s = 0 := by
  rw [keptCount_spec, if_pos (.inl h)]

theorem keptCount_of_overflow (c : Bytes) {s : State} (h : 320 < s.count) : keptCount c s = 0 := by
  rw [keptCount_spec, if_pos (.inr h)]

theorem keptCount_of_kept {c : Bytes} {s : State} (h : ¬ StartsWithPreamble c) (hs : s.count ≤ 320) :
    keptCount c s = s.count := by
  rw [keptCount_spec, if_neg]
  rintro (hc | hov)
  · exact h hc
  · omega

/-- Where not every byte survives, none does, for one of the two reasons. -/
theorem keptCount_cases (c : Bytes) (s : State) :
    keptCount c s = s.count ∨ ((320 < s.count ∨ StartsWithPreamble c) ∧ keptCount c s = 0) := by
  by_cases h : StartsWithPreamble c
  · exact .inr ⟨.inr h, keptCount_of_preamble h s⟩
  by_cases hs : 320 < s.count
  · exact .inr ⟨.inl hs, keptCount_of_overflow c hs⟩
  · exact .inl (keptCount_of_kept h (Nat.le_of_not_lt hs))

theorem length_of_startsWithPreamble {c : Bytes} (h : StartsWithPreamble c) : 4 ≤ c.length := by
  refine beginsWithPreamble_length ?_
  rw [beginsWithPreamble_eq]
  exact decide_eq_true h

/-! ## The count after a chunk -/

section
variable {s t : State} {c : Bytes} (hc : c.length ≤ s.maxChunk.val)
include hc

theorem append_next_count (h : exec (.append (.assembled c)) s = .next t) : t.count = keptCount c s + c.length := by
  rw [execAppend_assembled (exec_next h).1 hc] at h
  cases h
  rfl

theorem ingest_next_count (h : exec (.ingest (.assembled c)) s = .next t) : t.count < 300 := by
  rw [execIngest_assembled (exec_next h).1 hc] at h
  split at h
  · cases h
    exact Nat.zero_lt_succ _
  · next hlt =>
    cases h
    exact Nat.lt_of_not_le hlt

end

/-! ## The buffer's state -/

theorem fbState_of_count {s : State} {n : Nat} (h : s.count = n) :
    s.fbState = if n = 0 then .idle else if n < 300 then .accumulating else .ready := by
  subst h
  rfl

theorem fbState_eq_idle_iff {s : State} : s.fbState = .idle ↔ s.count = 0 := by
  rw [fbState_of_count rfl]
  split_ifs with h0 <;> simp [h0]

theorem fbState_eq_accumulating_iff {s : State} : s.fbState = .accumulating ↔ 0 < s.count ∧ s.count < 300 := by
  rw [fbState_of_count rfl]
  split_ifs with h0 h <;> simp
  · omega
  · omega
  · omega

theorem fbState_eq_ready_iff {s : State} : s.fbState = .ready ↔ 300 ≤ s.count := by
  rw [fbState_of_count rfl]
  split_ifs with h0 h <;> simp
  · omega
  · omega
  · omega

/-! ## The statements -/

/-- Settles O9: `base` is the number of bytes that survive steps S1 and S2. -/
theorem appendAccumulatesAChunk : Obligations.AppendAccumulatesAChunk := by
  intro s c hw hm hc
  rw [← keptCount_spec]
  refine ⟨_, execAppend_assembled hw hc, rfl, fun p => storeChunk_read c hm _ p, ?_, rfl, rfl, rfl⟩
  rw [answer_responses, accumulateDiag_spec]

/-- Settles O15. -/
theorem countAfterAChunkIsBounded : Obligations.CountAfterAChunkIsBounded := by
  intro s t c hc
  refine ⟨fun h => ?_, ingest_next_count hc⟩
  rw [append_next_count hc h]
  exact Nat.add_le_add_right (keptCount_le c s) _

/-- Settles O16: a count falls where no byte survives, or where the instruction clears it. -/
theorem countFallsOnlyAtTheListedClears : Obligations.CountFallsOnlyAtTheListedClears := by
  intro i s t h hlt
  obtain ⟨-, ⟨c, rfl, -, rfl⟩ | ⟨c, rfl, -, ⟨-, rfl⟩ | ⟨hlen, rfl⟩⟩ | ⟨rfl, hready, rfl⟩ | ⟨rfl, rfl⟩ | ⟨r, rfl, -⟩⟩ :=
    exec_next h
  · rw [answer_count] at hlt
    obtain hk | ⟨hwhy, hk⟩ := keptCount_cases c s
    · omega
    · exact .inr (.inr (.inl ⟨c, rfl, hwhy, by rw [answer_count, hk, Nat.zero_add]⟩))
  · rw [answer_count] at hlt
    obtain hk | ⟨hwhy, hk⟩ := keptCount_cases c s
    · omega
    · exact .inr (.inr (.inr ⟨c, rfl, hwhy.imp_right .inl, .inl (by rw [answer_count, hk, Nat.zero_add])⟩))
  · have hsum : 300 ≤ s.count + c.length := hlen.trans (Nat.add_le_add_right (keptCount_le_count c s) _)
    exact .inr (.inr (.inr ⟨c, rfl, .inr (.inr hsum), .inr rfl⟩))
  · exact .inl ⟨rfl, hready, rfl⟩
  · exact .inr (.inl ⟨rfl, rfl⟩)
  · exact absurd hlt (lt_irrefl _)

/-- The APPEND rows of the table: the state after the chunk is that of the bytes that survived and the chunk's. -/
theorem append_fbState {s t : State} {c : Bytes} (hc : c.length ≤ s.maxChunk.val)
    (h : exec (.append (.assembled c)) s = .next t) :
    (s.fbState = .idle → c.length = 0 → t.fbState = .idle) ∧
    (s.fbState = .idle → 0 < c.length → c.length < 300 → t.fbState = .accumulating) ∧
    (s.fbState = .idle → 300 ≤ c.length → t.fbState = .ready) ∧
    (s.fbState = .accumulating → ¬ StartsWithPreamble c → s.count + c.length < 300 → t.fbState = .accumulating) ∧
    (s.fbState = .accumulating → ¬ StartsWithPreamble c → 300 ≤ s.count + c.length → t.fbState = .ready) ∧
    (StartsWithPreamble c → t.fbState = if c.length < 300 then .accumulating else .ready) ∧
    (s.fbState = .ready → ¬ StartsWithPreamble c → s.count ≤ 320 →
      t.fbState = .ready ∧ t.count = s.count + c.length) ∧
    (320 < s.count → ¬ StartsWithPreamble c →
      t.fbState = if c.length = 0 then .idle else if c.length < 300 then .accumulating else .ready) := by
  have ht := append_next_count hc h
  have hkept := keptCount_le_count c s
  simp only [fbState_eq_idle_iff, fbState_eq_accumulating_iff, fbState_eq_ready_iff]
  refine ⟨fun hs hl => ?_, fun hs hl hl' => ?_, fun hs hl => ?_, fun hs hp hl => ?_, fun hs hp hl => ?_, fun hp => ?_,
    fun hs hp hl => ?_, fun hs hp => ?_⟩
  · omega
  · omega
  · omega
  · rw [keptCount_of_kept hp (by omega)] at ht
    omega
  · rw [keptCount_of_kept hp (by omega)] at ht
    omega
  · rw [keptCount_of_preamble hp, Nat.zero_add] at ht
    have hlen := length_of_startsWithPreamble hp
    rw [fbState_of_count ht, if_neg (by omega)]
  · rw [keptCount_of_kept hp hl] at ht
    omega
  · rw [keptCount_of_overflow c hs, Nat.zero_add] at ht
    exact fbState_of_count ht

/-- Settles O14. -/
theorem fbStateFollowsTheTransitionTable : Obligations.FbStateFollowsTheTransitionTable := by
  refine ⟨fun s t c hc h => append_fbState hc h, fun s t h => ?_, fun s t h => ?_, fun s t h => ?_⟩
  · rw [execTake_assembled (exec_next h).1] at h
    split at h
    · next hready =>
      cases h
      rw [if_pos (fbState_eq_ready_iff.mpr hready)]
      rfl
    · next hready =>
      cases h
      rw [if_neg (mt fbState_eq_ready_iff.mp hready)]
      rfl
  · rw [execReset_assembled (exec_next h).1] at h
    cases h
    rfl
  · rw [execIsReady_assembled (exec_next h).1] at h
    cases h
    rfl

end Sys2Proof.Machine
end

section
/-! SUPPORT. INGEST as the composite of the primitives, and the delivery of a frame in chunks (40_frame_parser.md R111,
44_pipeline.md R180-R187). -/

namespace Sys2Proof.Machine

/-! ## The flags of a completed frame -/

theorem Diag.empty_union (d : Diag) : ({} : Diag).union d = d := by simp [Diag.union]

theorem Diag.union_mismatch (d : Diag) : d.union Diag.mismatch = { d with csumMismatch := true } := by
  simp [Diag.union, Diag.mismatch]

/-- A decode adds at most UNKNOWN_TYPE. -/
theorem Diag.union_decodeEvent {d : Diag} (h : d.unknownType = false) (V : VariantDescriptor) (f : Bytes) :
    d.union (decodeEvent V f).1 = { d with unknownType := (decodeEvent V f).1.unknownType } := by
  simp [Diag.union, decodeEvent_flags, h]

/-- RESYNC joins the flags of a decode. -/
theorem Diag.resync_union (d : Diag) : ({ resync := true } : Diag).union d = { d with resync := true } := by
  simp [Diag.union]

theorem ingestFrame_of_valid (V : VariantDescriptor) {f : Bytes} (h : validFrame f = true) :
    ingestFrame V f = decodeEvent V f := if_pos h

theorem ingestFrame_of_not_valid (V : VariantDescriptor) {f : Bytes} (h : ¬ validFrame f = true) :
    ingestFrame V f = (Diag.mismatch, .noEvent) := if_neg h

/-- The flags and the event of a taken frame, by its sum (44_pipeline.md R181-R183). -/
theorem union_ingestFrame (V : VariantDescriptor) {f : Bytes} (hf : f.length = 300) {d : Diag}
    (hm : d.csumMismatch = false) (hu : d.unknownType = false) :
    (((f.take 299).map BitVec.toNat).sum % 256 = (f.getD 299 0#8).toNat →
      (d.union (ingestFrame V f).1).csumMismatch = false ∧
        (d.union (ingestFrame V f).1).unknownType = (decodeEvent V f).1.unknownType ∧
        (ingestFrame V f).2 = (decodeEvent V f).2) ∧
    (¬ ((f.take 299).map BitVec.toNat).sum % 256 = (f.getD 299 0#8).toNat →
      (d.union (ingestFrame V f).1).csumMismatch = true ∧ (d.union (ingestFrame V f).1).unknownType = false ∧
        (ingestFrame V f).2 = .noEvent) := by
  have hvalid := validFrame_of_length hf
  refine ⟨fun hsum => ?_, fun hsum => ?_⟩
  · rw [decide_eq_true hsum] at hvalid
    rw [ingestFrame_of_valid V hvalid, Diag.union_decodeEvent hu]
    exact ⟨hm, rfl, rfl⟩
  · rw [decide_eq_false hsum] at hvalid
    rw [ingestFrame_of_not_valid V (ne_true_of_eq_false hvalid), Diag.union_mismatch]
    exact ⟨rfl, hu, rfl⟩

/-- TAKE on a ready block, then VALIDATE and DECODE of the frame: what each answers. -/
theorem take_validate_decode {t : State} (hw : descriptorWf t.variant = true) (hready : 300 ≤ t.count) :
    ∃ t2 t3 t4 : State, exec (.take (.assembled ())) t = .next t2 ∧
      t2 = answer t t.buf 0 ⟨.ok, {}, .taken (some (readFrame t.buf))⟩ ∧
      exec (.validate (.assembled (readFrame t.buf))) t2 = .next t3 ∧
      t3.responses = t2.responses ++ [⟨.ok, {}, .verdict (validFrame (readFrame t.buf))⟩] ∧
      exec (.decode (.assembled (readFrame t.buf))) t3 = .next t4 ∧
      t4.responses = t3.responses ++
        [⟨.ok, (decodeEvent t.variant (readFrame t.buf)).1, .event (decodeEvent t.variant (readFrame t.buf)).2⟩] := by
  have htake := (execTake_assembled hw).trans (if_pos hready)
  generalize ht2 : answer t t.buf 0 _ = t2 at htake
  have hv2 : t2.variant = t.variant := ht2 ▸ rfl
  have hvalidate := execValidate_assembled (s := t2) (hv2 ▸ hw) (readFrame t.buf)
  generalize ht3 : answer t2 t2.buf t2.count _ = t3 at hvalidate
  have hv3 : t3.variant = t.variant := (ht3 ▸ rfl : t3.variant = t2.variant).trans hv2
  have hdecode := execDecode_assembled (s := t3) (hv3 ▸ hw) (readFrame_length t.buf)
  rw [hv3] at hdecode
  exact ⟨t2, t3, _, htake, rfl, hvalidate, ht3 ▸ rfl, hdecode, rfl⟩

/-! ## A block to which the host delivers a sequence in chunks -/

/-- A built block with descriptor `V` and `MAX_CHUNK = m`, which holds the bytes `acc`, and whose host has issued the
requests `qs`. -/
structure Delivering (V : VariantDescriptor) (m : Nat) (acc : Bytes) (qs : List Request) (s : State) : Prop where
  built : descriptorWf s.variant = true
  variant_eq : s.variant = V
  maxChunk_eq : s.maxChunk.val = m
  buf_wf : s.buf.wf
  holds : s.Holds acc
  requests_eq : s.requests = qs

section
variable {V : VariantDescriptor} {m : Nat} {acc c : Bytes} {q : Request} {qs : List Request} {s : State}

theorem Delivering.length_lt (h : Delivering V m acc qs s) (hc : c.length ≤ m) : c.length < 65536 :=
  hc.trans_lt (h.maxChunk_eq ▸ s.maxChunk.isLt)

/-- A step runs the oldest request on the block without it. -/
theorem Delivering.dequeue (h : Delivering V m acc (q :: qs) s) :
    ∃ u : State, Delivering V m acc qs u ∧ step s = exec (decodeRequest q) u ∧ u.count = s.count ∧
      u.responses = s.responses :=
  ⟨{ s with requests := qs },
    ⟨h.built, h.variant_eq, h.maxChunk_eq, h.buf_wf, ⟨h.holds.count_eq, h.holds.bytes_eq⟩, rfl⟩,
    step_cons h.requests_eq, rfl, rfl⟩

/-- The block after APPEND's steps. -/
theorem Delivering.accumulate (h : Delivering V m acc qs s) (c : Bytes) :
    Delivering V m (growAppend acc c) qs (accumulate c s) :=
  ⟨by rw [accumulate_variant]; exact h.built, by rw [accumulate_variant, h.variant_eq],
    by rw [accumulate_maxChunk, h.maxChunk_eq], accumulate_wf h.buf_wf c, h.holds.accumulate h.buf_wf c,
    by rw [accumulate_requests, h.requests_eq]⟩

theorem Delivering.clearCount (h : Delivering V m acc qs s) : Delivering V m [] qs (clearCount s) :=
  ⟨h.built, h.variant_eq, h.maxChunk_eq, h.buf_wf, clearCount_holds s, h.requests_eq⟩

theorem Delivering.emit (h : Delivering V m acc qs s) (r : Response) : Delivering V m acc qs (emit s r) :=
  ⟨h.built, h.variant_eq, h.maxChunk_eq, h.buf_wf, h.holds.emit r, h.requests_eq⟩

/-- One APPEND of the delivery. -/
theorem Delivering.append (h : Delivering V m acc (appendRequest c :: qs) s) (hc : c.length ≤ m) :
    ∃ t, step s = .next t ∧ Delivering V m (growAppend acc c) qs t := by
  obtain ⟨u, hu, hstep, -, -⟩ := h.dequeue
  have hexec := execAppend_assembled hu.built (hu.maxChunk_eq ▸ hc)
  rw [← emit_accumulate_eq_answer] at hexec
  rw [hstep, decodeRequest_append (h.length_lt hc)]
  exact ⟨_, hexec, (hu.accumulate c).emit _⟩

/-- One INGEST that leaves the frame partial. -/
theorem Delivering.ingest_partial (h : Delivering V m acc (ingestRequest c :: qs) s) (hc : c.length ≤ m)
    (hlen : (growAppend acc c).length < 300) :
    ∃ t, step s = .next t ∧ Delivering V m (growAppend acc c) qs t ∧
      t.responses = s.responses ++ [⟨.ok, accumulateDiag c s, .event .noEvent⟩] := by
  obtain ⟨u, hu, hstep, hcount, hresp⟩ := h.dequeue
  have hexec := execIngest_assembled hu.built (hu.maxChunk_eq ▸ hc)
  rw [if_neg (Nat.not_le.mpr (hu.holds.growAppend_length c ▸ hlen)), ← emit_accumulate_eq_answer] at hexec
  rw [hstep, decodeRequest_ingest (h.length_lt hc)]
  refine ⟨_, hexec, (hu.accumulate c).emit _, ?_⟩
  rw [emit_responses, accumulate_responses, hresp, accumulateDiag_congr c hcount]

/-- One INGEST that completes a frame. -/
theorem Delivering.ingest_complete (h : Delivering V m acc (ingestRequest c :: qs) s) (hc : c.length ≤ m)
    (hlen : 300 ≤ (growAppend acc c).length) :
    ∃ t, step s = .next t ∧ Delivering V m [] qs t ∧
      t.responses = s.responses ++
        [⟨.ok, (accumulateDiag c s).union (ingestFrame V ((growAppend acc c).take 300)).1,
          .event (ingestFrame V ((growAppend acc c).take 300)).2⟩] := by
  obtain ⟨u, hu, hstep, hcount, hresp⟩ := h.dequeue
  have hgrown := hu.accumulate c
  have hexec := execIngest_assembled hu.built (hu.maxChunk_eq ▸ hc)
  rw [if_pos (hu.holds.growAppend_length c ▸ hlen), ← emit_clear_accumulate_eq_answer, ← accumulate_buf,
    hgrown.holds.readFrame_eq hlen, hu.variant_eq, accumulateDiag_congr c hcount] at hexec
  rw [hstep, decodeRequest_ingest (h.length_lt hc)]
  refine ⟨_, hexec, hgrown.clearCount.emit _, ?_⟩
  rw [emit_responses, clearCount_responses, accumulate_responses, hresp]

end

/-! ## Chunks that continue what the block holds -/

/-- No chunk of `cs` discards the bytes `acc` and the chunks before it: only a first chunk that finds nothing may begin
with the preamble. -/
abbrev Joins (acc : Bytes) (cs : List Bytes) : Prop :=
  (∀ c ∈ cs.head?, acc = [] ∨ ¬ StartsWithPreamble c) ∧ ∀ c ∈ cs.tail, ¬ StartsWithPreamble c

theorem IsCut.joins {m : Nat} {f : Bytes} {cs : List Bytes} (h : IsCut m f cs) : Joins [] cs :=
  ⟨fun _ _ => .inl rfl, h.later⟩

theorem joins_of_forall (acc : Bytes) {cs : List Bytes} (h : ∀ c ∈ cs, ¬ StartsWithPreamble c) : Joins acc cs :=
  ⟨fun c hc => .inr (h c (List.mem_of_mem_head? hc)), fun c hc => h c (List.mem_of_mem_tail hc)⟩

section
variable {acc c : Bytes} {cs : List Bytes}

theorem Joins.head (h : Joins acc (c :: cs)) : acc = [] ∨ ¬ StartsWithPreamble c := h.1 c rfl

theorem Joins.next (h : Joins acc (c :: cs)) (acc' : Bytes) : Joins acc' cs := joins_of_forall acc' h.2

/-- A chunk that continues `acc` is added to it. -/
theorem growAppend_of_joins (h : acc = [] ∨ ¬ StartsWithPreamble c) (hlen : acc.length ≤ 320) :
    growAppend acc c = acc ++ c := by
  unfold growAppend
  rw [beginsWithPreamble_eq]
  obtain rfl | h := h
  · simp
  · simp [h, hlen]

/-- A chunk that continues `acc` raises no flag. -/
theorem accumulateDiag_of_joins {s : State} (h : acc = [] ∨ ¬ StartsWithPreamble c) (hs : s.Holds acc)
    (hlen : acc.length ≤ 320) : accumulateDiag c s = {} := by
  rw [accumulateDiag_spec, hs.count_eq]
  obtain rfl | h := h
  · simp
  · simp [h, hlen]

/-- Chunks of which the last is not empty hold a byte. -/
theorem flatten_length_pos (hcs : cs ≠ []) (hlast : cs.getLast? ≠ some []) : 0 < cs.flatten.length := by
  rw [List.length_pos_iff]
  intro hflat
  refine hlast ?_
  rw [List.getLast?_eq_getLast_of_ne_nil hcs, List.flatten_eq_nil_iff.mp hflat _ (List.getLast_mem hcs)]

end

/-! ## Whole deliveries -/

/-- The response of an INGEST that completes no frame. -/
def quietResponse : Response := ⟨.ok, {}, .event .noEvent⟩

/-- The response of an INGEST that completes the valid frame `f`. -/
def decodeResponse (V : VariantDescriptor) (f : Bytes) : Response :=
  ⟨.ok, (decodeEvent V f).1, .event (decodeEvent V f).2⟩

section
variable {V : VariantDescriptor} {m : Nat}

/-- The APPENDs of chunks that continue `acc` add them all. -/
theorem Delivering.run_appends {acc : Bytes} {cs : List Bytes} {s : State}
    (h : Delivering V m acc (cs.map appendRequest) s) (hj : Joins acc cs) (hc : ∀ c ∈ cs, c.length ≤ m)
    (hlen : (acc ++ cs.flatten).length ≤ 320) :
    ∃ t, Host.Core.run Sys2Proof.core cs.length s = .next t ∧ Delivering V m (acc ++ cs.flatten) [] t := by
  induction cs generalizing acc s with
  | nil => exact ⟨s, rfl, by simpa using h⟩
  | cons c cs ih =>
    rw [List.flatten_cons, ← List.append_assoc] at hlen ⊢
    obtain ⟨u, hu, hdel⟩ := h.append (hc c List.mem_cons_self)
    rw [growAppend_of_joins hj.head (by simp only [List.length_append] at hlen; omega)] at hdel
    obtain ⟨t, ht, hdel'⟩ := ih hdel (hj.next _) (fun c' hc' => hc c' (List.mem_cons_of_mem c hc')) hlen
    exact ⟨t, (run_succ_of_step hu).trans ht, hdel'⟩

/-- An INGEST of a chunk that continues a partial frame and leaves it partial is quiet. -/
theorem Delivering.ingest_quiet {acc c : Bytes} {qs : List Request} {s : State}
    (h : Delivering V m acc (ingestRequest c :: qs) s) (hj : acc = [] ∨ ¬ StartsWithPreamble c) (hc : c.length ≤ m)
    (hlen : (acc ++ c).length < 300) :
    ∃ t, step s = .next t ∧ Delivering V m (acc ++ c) qs t ∧ t.responses = s.responses ++ [quietResponse] := by
  have hacc : acc.length ≤ 320 := by
    rw [List.length_append] at hlen
    omega
  have hgrow := growAppend_of_joins hj hacc
  have hstep := h.ingest_partial hc (hgrow ▸ hlen)
  rwa [hgrow, accumulateDiag_of_joins hj h.holds hacc] at hstep

/-- An INGEST of the chunk that completes a valid frame decodes it. -/
theorem Delivering.ingest_decodes {acc c : Bytes} {qs : List Request} {s : State}
    (h : Delivering V m acc (ingestRequest c :: qs) s) (hj : acc = [] ∨ ¬ StartsWithPreamble c) (hc : c.length ≤ m)
    (hlen : (acc ++ c).length = 300) (hvalid : validFrame (acc ++ c) = true) :
    ∃ t, step s = .next t ∧ Delivering V m [] qs t ∧
      t.responses = s.responses ++ [decodeResponse V (acc ++ c)] := by
  have hacc : acc.length ≤ 320 := by
    rw [List.length_append] at hlen
    omega
  have hgrow := growAppend_of_joins hj hacc
  have hstep := h.ingest_complete hc (hgrow ▸ hlen.ge)
  rwa [hgrow, List.take_of_length_le hlen.le, ingestFrame_of_valid V hvalid,
    accumulateDiag_of_joins hj h.holds hacc, Diag.empty_union] at hstep

/-- INGESTs of empty chunks are quiet and keep a partial frame. -/
theorem Delivering.run_empty_ingests {acc : Bytes} {k : Nat} {s : State}
    (h : Delivering V m acc ((List.replicate k []).map ingestRequest) s) (hlen : acc.length < 300) :
    ∃ t, Host.Core.run Sys2Proof.core k s = .next t ∧ t.count = acc.length ∧
      t.responses = s.responses ++ List.replicate k quietResponse := by
  induction k generalizing s with
  | zero => exact ⟨s, rfl, h.holds.count_eq, by simp⟩
  | succ k ih =>
    rw [List.replicate_succ, List.map_cons] at h
    obtain ⟨u, hu, hdel, hr⟩ := h.ingest_quiet (.inr (by decide)) (Nat.zero_le m) (by simpa using hlen)
    rw [List.append_nil] at hdel
    obtain ⟨t, ht, hcount, hr'⟩ := ih hdel
    refine ⟨t, (run_succ_of_step hu).trans ht, hcount, ?_⟩
    rw [hr', hr, List.append_assoc, List.singleton_append, ← List.replicate_succ]

/-- The INGESTs of chunks that complete a valid frame, and of `k` empty ones after them: the last of the chunks brings
the frame's last byte and its decode, and all others are quiet. -/
theorem Delivering.run_ingests {acc : Bytes} {cs : List Bytes} {k : Nat} {s : State}
    (h : Delivering V m acc ((cs ++ List.replicate k []).map ingestRequest) s) (hj : Joins acc cs)
    (hc : ∀ c ∈ cs, c.length ≤ m) (hacc : acc.length < 300) (hlen : (acc ++ cs.flatten).length = 300)
    (hvalid : validFrame (acc ++ cs.flatten) = true) (hlast : cs.getLast? ≠ some []) :
    ∃ t, Host.Core.run Sys2Proof.core (cs.length + k) s = .next t ∧ t.count = 0 ∧
      t.responses = s.responses ++ List.replicate (cs.length - 1) quietResponse ++
        [decodeResponse V (acc ++ cs.flatten)] ++ List.replicate k quietResponse := by
  induction cs generalizing acc s with
  | nil =>
    rw [List.flatten_nil, List.append_nil] at hlen
    exact absurd hlen hacc.ne
  | cons c cs ih =>
    rw [List.cons_append, List.map_cons] at h
    rw [List.length_cons, Nat.add_right_comm, Nat.add_sub_cancel]
    by_cases hcs : cs = []
    · subst hcs
      rw [List.flatten_singleton] at hlen hvalid ⊢
      obtain ⟨u, hu, hdel, hr⟩ := h.ingest_decodes hj.head (hc c List.mem_cons_self) hlen hvalid
      obtain ⟨t, ht, hcount, hr'⟩ := hdel.run_empty_ingests (Nat.zero_lt_succ _)
      rw [List.length_nil, Nat.zero_add, run_succ_of_step hu]
      refine ⟨t, ht, hcount, ?_⟩
      rw [hr', hr, List.replicate_zero, List.append_nil]
    · have hlast' : cs.getLast? ≠ some [] := by rwa [List.getLast?_cons_of_ne_nil hcs] at hlast
      have hpos := flatten_length_pos hcs hlast'
      rw [List.flatten_cons, ← List.append_assoc] at hlen hvalid ⊢
      have hlt : (acc ++ c).length < 300 := by
        rw [List.length_append] at hlen
        omega
      obtain ⟨u, hu, hdel, hr⟩ := h.ingest_quiet hj.head (hc c List.mem_cons_self) hlt
      obtain ⟨t, ht, hcount, hr'⟩ :=
        ih hdel (hj.next _) (fun c' hc' => hc c' (List.mem_cons_of_mem c hc')) hlt hlen hvalid hlast'
      rw [run_succ_of_step hu]
      refine ⟨t, ht, hcount, ?_⟩
      have hn : cs.length = (cs.length - 1) + 1 := (Nat.sub_add_cancel (List.length_pos_iff.mpr hcs)).symm
      rw [hr', hr, hn, List.replicate_succ]
      simp

end

/-! ## The start of a delivery -/

/-- A block holds at least the bytes it stores. -/
theorem holds_stored (s : State) : s.Holds ((List.range s.count).map s.buf.read) := by
  refine ⟨by simp, fun p hp => ?_⟩
  have hlt : p < s.count := by
    simp only [List.length_map, List.length_range] at hp
    omega
  simp [List.getD_eq_getElem?_getD, hlt]

/-- A chunk that begins with the preamble replaces what was held. -/
theorem growAppend_of_preamble (acc : Bytes) {c : Bytes} (h : StartsWithPreamble c) : growAppend acc c = c := by
  unfold growAppend
  rw [beginsWithPreamble_eq, if_pos (decide_eq_true h)]

/-- A preamble that discards a partial frame raises RESYNC alone. -/
theorem accumulateDiag_of_resync {s : State} {c : Bytes} (h : StartsWithPreamble c) (hpos : 0 < s.count)
    (hlt : s.count < 300) : accumulateDiag c s = { resync := true } := by
  rw [accumulateDiag_spec, decide_eq_false (by omega), decide_eq_true ⟨h, hpos, by omega⟩]

/-! ## The statements -/

/-- Settles O17. -/
theorem splitAppendsFillTheBuffer : Obligations.SplitAppendsFillTheBuffer := by
  intro s f cs hw hm hs hf hcut hq
  have hdel : Delivering s.variant s.maxChunk.val [] (cs.map appendRequest) s :=
    ⟨hw, rfl, rfl, hm, holds_nil hs, hq⟩
  obtain ⟨t, ht, hdel'⟩ := hdel.run_appends hcut.joins hcut.fits (by rw [List.nil_append, hcut.joined, hf]; decide)
  rw [List.nil_append, hcut.joined] at hdel'
  have hcount : t.count = 300 := hdel'.holds.count_eq.trans hf
  refine ⟨t, ht, hcount, decide_eq_true hcount.ge, fun p hp => hdel'.holds.bytes_eq p ?_⟩
  rw [hf]
  exact lt_min hp hp

/-- Settles O18: the accumulating steps are APPEND's, and the frame taken is the storage they leave. -/
theorem ingestTakesValidatesAndDecodes : Obligations.IngestTakesValidatesAndDecodes := by
  intro s c hw hm hc
  rw [← keptCount_spec]
  have hov : (accumulateDiag c s).overflow = decide (320 < s.count) := by rw [accumulateDiag_spec]
  have hre : (accumulateDiag c s).resync = decide (StartsWithPreamble c ∧ 0 < s.count ∧ s.count ≤ 320) := by
    rw [accumulateDiag_spec]
  have hexec := execIngest_assembled hw hc
  by_cases hlen : 300 ≤ keptCount c s + c.length
  · rw [if_pos hlen] at hexec
    refine ⟨_, _, _, hexec, rfl, ?_, ?_, rfl, rfl, rfl, fun p => storeChunk_read c hm _ p,
      fun h => absurd hlen (Nat.not_le.mpr h), fun _ => ⟨rfl, readFrame (storeChunk s.buf (keptCount c s) c),
        readFrame_length _, fun p => readFrame_getD _, ?_⟩⟩
    · simp [Diag.union, ingestFrame_flags, hov]
    · simp [Diag.union, ingestFrame_flags, hre]
    · rw [ite_prop_iff_and]
      exact union_ingestFrame s.variant (readFrame_length _) rfl rfl
  · rw [if_neg hlen] at hexec
    exact ⟨_, _, _, hexec, rfl, hov, hre, rfl, rfl, rfl, fun p => storeChunk_read c hm _ p,
      fun _ => ⟨rfl, rfl, rfl, rfl⟩, fun h => absurd h hlen⟩

/-- Settles O19: INGEST's storage and flags are APPEND's, and its frame is the one TAKE then gives. -/
theorem ingestIsThePrimitivePath : Obligations.IngestIsThePrimitivePath := by
  intro s c hw hc
  have hexec := execIngest_assembled hw hc
  refine ⟨_, _, _, execAppend_assembled hw hc, rfl, fun hready => ?_, fun hready => ?_⟩
  · rw [hexec, if_neg (of_decide_eq_false hready)]
    rfl
  · have hlen := of_decide_eq_true hready
    rw [if_pos hlen] at hexec
    obtain ⟨t2, t3, t4, htake, ht2, hvalidate, hr3, hdecode, hr4⟩ := take_validate_decode (t := answer s _ _ _) hw hlen
    refine ⟨t2, t3, _, _, htake, by rw [ht2, answer_responses], hvalidate, hr3, fun hv => ?_,
      fun hv => ⟨t4, _, _, hdecode, hr4, ?_⟩⟩
    · rw [answer_buf] at hv
      rw [hexec, ingestFrame_of_not_valid _ (ne_true_of_eq_false hv), Diag.union_mismatch, ht2]
      rfl
    · rw [answer_buf] at hv
      rw [hexec, ingestFrame_of_valid _ hv, Diag.union_decodeEvent rfl, ht2]
      rfl

/-- Settles O20: an empty buffer holds nothing that the cut's first chunk could discard. -/
theorem splitIngestsDecodeTheFrameOnce : Obligations.SplitIngestsDecodeTheFrameOnce := by
  intro s f cs k hw hm hs hf hvalid hcut hlast hq
  have hdel : Delivering s.variant s.maxChunk.val [] ((cs ++ List.replicate k []).map ingestRequest) s :=
    ⟨hw, rfl, rfl, hm, holds_nil hs, hq⟩
  have hjoined : [] ++ cs.flatten = f := hcut.joined
  rw [← hjoined] at hf hvalid ⊢
  exact hdel.run_ingests hcut.joins hcut.fits (Nat.zero_lt_succ _) hf hvalid hlast

/-- Settles O21: the first chunk replaces the partial frame, and the other chunks continue it. -/
theorem resyncDecodesOnlyTheNewFrame : Obligations.ResyncDecodesOnlyTheNewFrame := by
  intro s f c cs k hw hm hpos hlt hf hvalid hpre hcut hlast hq
  obtain ⟨hjoined, hfits, hlater⟩ := hcut
  have hdel : Delivering s.variant s.maxChunk.val ((List.range s.count).map s.buf.read)
      (ingestRequest c :: (cs ++ List.replicate k []).map ingestRequest) s :=
    ⟨hw, rfl, rfl, hm, holds_stored s, hq⟩
  have hgrow := growAppend_of_preamble ((List.range s.count).map s.buf.read) hpre
  have hdiag := accumulateDiag_of_resync hpre hpos hlt
  rw [List.flatten_cons] at hjoined
  subst hjoined
  rw [Nat.add_right_comm]
  by_cases hcs : cs = []
  · subst hcs
    rw [List.flatten_nil, List.append_nil] at hf hvalid ⊢
    obtain ⟨u, hu, hdel', hr⟩ := hdel.ingest_complete (hfits c List.mem_cons_self) (hgrow.symm ▸ hf.ge)
    rw [hgrow, List.take_of_length_le hf.le, ingestFrame_of_valid _ hvalid, hdiag, Diag.resync_union] at hr
    obtain ⟨t, ht, hcount, hr'⟩ := hdel'.run_empty_ingests (Nat.zero_lt_succ _)
    rw [List.length_nil, Nat.zero_add, run_succ_of_step hu]
    exact ⟨t, ht, hcount, fun _ => hr'.trans (congrArg (· ++ _) hr), fun h => absurd rfl h⟩
  · have hc : c.length < 300 := by
      have hrest := flatten_length_pos hcs hlast
      rw [List.length_append] at hf
      omega
    obtain ⟨u, hu, hdel', hr⟩ := hdel.ingest_partial (hfits c List.mem_cons_self) (hgrow.symm ▸ hc)
    rw [hgrow] at hdel'
    rw [hdiag] at hr
    obtain ⟨t, ht, hcount, hr'⟩ := hdel'.run_ingests (joins_of_forall c hlater)
      (fun c' hc' => hfits c' (List.mem_cons_of_mem c hc')) hc hf hvalid hlast
    rw [run_succ_of_step hu]
    refine ⟨t, ht, hcount, fun h => absurd h hcs, fun _ => ?_⟩
    rw [hr', hr]
    rfl

end Sys2Proof.Machine
end

section
/-! SUPPORT. The additive checksum: its loop, what it detects and what it does not (41_checksum.md R120-R126,
70_reset_and_hazards.md R230). -/

namespace Sys2Proof.Machine

/-! ## Sums of bytes -/

/-- One turn of the loop of R120. -/
theorem checksum_succ {s : Bytes} {i : Nat} (h : i < s.length) :
    (checksum s (i + 1)).toNat = ((checksum s i).toNat + (s.getD i 0#8).toNat) % 256 := by
  rw [checksum_toNat, checksum_toNat, List.take_succ_eq_append_getElem h, byteSum_append, byteSum_cons, byteSum_nil,
    List.getD_eq_getElem _ _ h]
  omega

/-- Changing a byte changes the sum by the difference of the two. -/
theorem byteSum_set {s : Bytes} {i : Nat} (h : i < s.length) (b : Byte) :
    byteSum (s.set i b) + (s.getD i 0#8).toNat = byteSum s + b.toNat := by
  induction s generalizing i with
  | nil => exact absurd h (Nat.not_lt_zero i)
  | cons a s ih =>
    cases i with
    | zero =>
      simp only [List.set_cons_zero, byteSum_cons, List.getD_cons_zero]
      omega
    | succ i =>
      have := ih (Nat.lt_of_succ_lt_succ h)
      simp only [List.set_cons_succ, byteSum_cons, List.getD_cons_succ]
      omega

/-- A sum does not see the order (70_reset_and_hazards.md R230). -/
theorem byteSum_perm {s t : Bytes} (h : s.Perm t) : byteSum s = byteSum t := (h.map BitVec.toNat).sum_eq

/-! ## The verdict -/

/-- Two bytes that differ differ as numbers below 256, so no change of one byte keeps a frame valid. -/
theorem validFrame_set {f : Bytes} {i : Nat} {b : Byte} (hi : i < f.length) (hb : b ≠ f.getD i 0#8)
    (hf : validFrame f = true) : validFrame (f.set i b) = false := by
  obtain rfl | ⟨body, last, rfl⟩ := List.eq_nil_or_concat f
  · exact absurd hi (Nat.not_lt_zero i)
  rw [List.concat_eq_append] at *
  rw [validFrame_append, decide_eq_true_eq] at hf
  have hlast := last.isLt
  by_cases hbody : i < body.length
  · have hget : (body ++ [last]).getD i 0#8 = body.getD i 0#8 := by
      simp only [List.getD_eq_getElem?_getD, List.getElem?_append_left hbody]
    rw [hget, ne_eq, ← BitVec.toNat_inj] at hb
    rw [List.set_append_left _ _ hbody, validFrame_append]
    have hset := byteSum_set hbody b
    have := b.isLt
    have := (body.getD i 0#8).isLt
    exact decide_eq_false (by omega)
  · obtain rfl : i = body.length := by
      rw [List.length_append, List.length_singleton] at hi
      omega
    have hget : (body ++ [last]).getD body.length 0#8 = last := by simp
    rw [hget, ne_eq, ← BitVec.toNat_inj] at hb
    rw [List.set_append_right _ _ (Nat.le_refl _), Nat.sub_self, List.set_cons_zero, validFrame_append, hf]
    exact decide_eq_false (Ne.symm hb)

theorem execValidate_verdict_iff {s : State} (hw : descriptorWf s.variant = true) {f : Bytes} {v : Bool} :
    exec (.validate (.assembled f)) s = .next { s with responses := s.responses ++ [⟨.ok, {}, .verdict v⟩] } ↔
      validFrame f = v := by
  rw [execValidate_assembled hw]
  simp [answer]

/-- VALIDATE sees nothing of a frame but its verdict. -/
theorem execValidate_congr {f g : Bytes} (h : validFrame f = validFrame g) (s : State) :
    exec (.validate (.assembled f)) s = exec (.validate (.assembled g)) s := by
  cases hw : descriptorWf s.variant with
  | true => rw [execValidate_assembled hw, execValidate_assembled hw, h]
  | false => rw [illFormedDescriptorIsRefused.2 _ s hw, illFormedDescriptorIsRefused.2 _ s hw]

/-! ## The statements -/

/-- Settles O25: the loop's values are the checksums of the lengths up to `n`. -/
theorem checksumRunsItsLoop : Obligations.ChecksumRunsItsLoop := by
  intro s a hw
  refine ⟨fun hn => ⟨checksum a.s, rfl, fun i hi => checksum_succ (hi.trans_le hn), execChecksum_assembled hw hn⟩,
    execChecksum_rejected hw, execChecksum_malformed hw, fun hlen => ?_⟩
  have hq : checksumRequest a = ⟨0x05#8, encodeChecksum (.assembled a)⟩ := rfl
  rw [hq, decodeRequest_op_checksum, assembleChecksum_encode hlen]

/-- Settles O26. -/
theorem checksumIsTheSumModulo256 : Obligations.ChecksumIsTheSumModulo256 := by
  intro s a hw hn
  exact ⟨checksum a.s a.n.toNat, checksum_toNat _ _, execChecksum_assembled hw hn⟩

/-- Settles O28. -/
theorem singleByteChangeIsDetected : Obligations.SingleByteChangeIsDetected := by
  intro s f i b hw hi hb hf
  rw [execValidate_verdict_iff hw] at hf ⊢
  exact validFrame_set hi hb hf

/-- Settles O29: the preamble's bytes sum to `0x27A`, which is `0x7A` modulo 256. -/
theorem outboundCommandFrameValidates : Obligations.OutboundCommandFrameValidates := by
  intro s k l v hw value cs f
  refine ⟨rfl, (execValidate_verdict_iff hw).mpr ?_⟩
  have hsum : byteSum ([0xAA#8, 0x55#8, 0x90#8, 0xEB#8, k, l] ++ value ++ List.replicate 9 0#8) =
      0x27A + k.toNat + l.toNat + byteSum value := by
    have hzero : byteSum (List.replicate 9 0#8) = 0 := rfl
    simp only [byteSum_append, byteSum_cons, byteSum_nil, hzero, BitVec.toNat_ofNat]
    omega
  have hcs : cs.toNat = (0x7A + k.toNat + l.toNat + byteSum value) % 256 := BitVec.toNat_ofNat _ _
  rw [validFrame_append, hsum, hcs]
  exact decide_eq_true (by omega)

/-- Settles O30. -/
theorem reorderingIsNotDetected : Obligations.ReorderingIsNotDetected := by
  intro s body body' last h
  refine execValidate_congr ?_ s
  rw [validFrame_append, validFrame_append, byteSum_perm h]

end Sys2Proof.Machine
end

section
/-! SUPPORT. The frame decoder's dispatch, and the frame-type rows (30_encoding.md R66, 42_frame_decoder.md
R130-R136). -/

namespace Sys2Proof.Machine

/-! ## The type byte -/

theorem frameTypeOf_eq_cellinfo_iff {t : Byte} : frameTypeOf t = .cellinfo ↔ t = 0x02#8 := by
  unfold frameTypeOf
  split_ifs with h2 h3 h1
  · exact iff_of_true rfl h2
  · exact iff_of_false nofun h2
  · exact iff_of_false nofun h2
  · exact iff_of_false nofun h2

theorem frameTypeOf_eq_deviceinfo_iff {t : Byte} : frameTypeOf t = .deviceinfo ↔ t = 0x03#8 := by
  unfold frameTypeOf
  split_ifs with h2 h3 h1
  · exact iff_of_false nofun (by rw [h2]; decide)
  · exact iff_of_true rfl h3
  · exact iff_of_false nofun h3
  · exact iff_of_false nofun h3

theorem frameTypeOf_eq_settings_iff {t : Byte} : frameTypeOf t = .settings ↔ t = 0x01#8 := by
  unfold frameTypeOf
  split_ifs with h2 h3 h1
  · exact iff_of_false nofun (by rw [h2]; decide)
  · exact iff_of_false nofun (by rw [h3]; decide)
  · exact iff_of_true rfl h1
  · exact iff_of_false nofun h1

theorem frameTypeOf_eq_unknown_iff {t : Byte} :
    frameTypeOf t = .unknown ↔ t ≠ 0x01#8 ∧ t ≠ 0x02#8 ∧ t ≠ 0x03#8 := by
  unfold frameTypeOf
  split_ifs with h2 h3 h1
  · exact iff_of_false nofun fun h => h.2.1 h2
  · exact iff_of_false nofun fun h => h.2.2 h3
  · exact iff_of_false nofun fun h => h.1 h1
  · exact iff_of_true rfl ⟨h1, h2, h3⟩

/-! ## The decode, by the type byte -/

section
variable (V : VariantDescriptor) {f : Bytes}

theorem decodeEvent_cellinfo (h : f.getD 4 0#8 = 0x02#8) :
    decodeEvent V f = ({}, .cellInfo (extractCellInfo V f)) := by
  have ht : frameTypeOf (u8 f Config.typeOff) = .cellinfo := frameTypeOf_eq_cellinfo_iff.mpr h
  rw [decodeEvent, ht, decodeCellinfo]

theorem decodeEvent_deviceinfo (h : f.getD 4 0#8 = 0x03#8) :
    decodeEvent V f = ({}, .deviceInfo (extractDeviceInfo V f)) := by
  have ht : frameTypeOf (u8 f Config.typeOff) = .deviceinfo := frameTypeOf_eq_deviceinfo_iff.mpr h
  rw [decodeEvent, ht, decodeDeviceinfo]

theorem decodeEvent_settings (h : f.getD 4 0#8 = 0x01#8) : decodeEvent V f = ({}, .unhandled 0x01#8) := by
  have ht : frameTypeOf (u8 f Config.typeOff) = .settings := frameTypeOf_eq_settings_iff.mpr h
  rw [decodeEvent, ht, decodeSettings]

theorem decodeEvent_unknown (h1 : f.getD 4 0#8 ≠ 0x01#8) (h2 : f.getD 4 0#8 ≠ 0x02#8) (h3 : f.getD 4 0#8 ≠ 0x03#8) :
    decodeEvent V f = ({ unknownType := true }, .unhandled (f.getD 4 0#8)) := by
  have ht : frameTypeOf (u8 f Config.typeOff) = .unknown := frameTypeOf_eq_unknown_iff.mpr ⟨h1, h2, h3⟩
  rw [decodeEvent, ht, decodeUnknown, Diag.unknown, u8]

end

/-! ## The rows as instructions (logs 10, 11) -/

section
variable {s : State} {f : Bytes} (hw : descriptorWf s.variant = true)
include hw

/-- The row of a whole frame does what DECODE does with it. -/
theorem onFrameRow_eq_decode (hf : f.length = 300) {row : FrameType} (ht : frameTypeOf (f.getD 4 0#8) = row)
    {d : Decoded} (hd : decodeEvent s.variant f = d) :
    onFrameRow row f s d = exec (.decode (.assembled f)) s := by
  rw [onFrameRow_of_type hw hf ht, execDecode_assembled hw hf, hd]

/-- A row on a frame that is not of its type is no instruction. -/
theorem onFrameRow_refused {row : FrameType} (h : ¬ (f.length = 300 ∧ frameTypeOf (f.getD 4 0#8) = row))
    (d : Decoded) : onFrameRow row f s d = .refused .notAnInstruction := by
  refine (onBuilt_of_wf hw _).trans (if_neg fun hmap => h ?_)
  obtain ⟨t, ht, hrow⟩ := Option.map_eq_some_iff.mp hmap
  obtain ⟨hf, rfl⟩ := frameTypeByte?_eq_some_iff.mp ht
  exact ⟨hf, hrow⟩

end

/-- The instruction a frame decodes to does what DECODE does with the frame. -/
theorem exec_of_decodeFrame {s : State} {f : Bytes} {i : Instr} (hw : descriptorWf s.variant = true)
    (h : decodeFrame f = .ok i) : exec i s = exec (.decode (.assembled f)) s := by
  have hf : f.length = 300 := by
    by_contra hne
    rw [decodeFrame, frameTypeByte?_of_length_ne hne] at h
    cases h
  rw [decodeFrame_of_length hf] at h
  split_ifs at h with h2 h3 h1 <;> cases h
  · exact onFrameRow_eq_decode hw hf (frameTypeOf_eq_cellinfo_iff.mpr h2) (decodeEvent_cellinfo _ h2)
  · exact onFrameRow_eq_decode hw hf (frameTypeOf_eq_deviceinfo_iff.mpr h3) (decodeEvent_deviceinfo _ h3)
  · exact onFrameRow_eq_decode hw hf (frameTypeOf_eq_settings_iff.mpr h1) (decodeEvent_settings _ h1)
  · exact onFrameRow_eq_decode hw hf (frameTypeOf_eq_unknown_iff.mpr ⟨h1, h2, h3⟩) (decodeEvent_unknown _ h1 h2 h3)

/-! ## The statements -/

/-- Settles O31. -/
theorem decodeDispatchesOnTheTypeByte : Obligations.DecodeDispatchesOnTheTypeByte := by
  intro s f hw hf
  refine ⟨_, _, execDecode_assembled hw hf, ?_⟩
  rw [Prod.mk.eta]
  split_ifs with h2 h3 h1
  · exact decodeEvent_cellinfo _ h2
  · exact decodeEvent_deviceinfo _ h3
  · exact decodeEvent_settings _ h1
  · exact decodeEvent_unknown _ h1 h2 h3

/-- Settles O32: DECODE answers with its event, and the row does what DECODE does. -/
theorem frameTypeRowsYieldTheirEvents : Obligations.FrameTypeRowsYieldTheirEvents := by
  intro s f hw hf
  have hdec := execDecode_assembled hw hf
  refine ⟨fun h2 => ?_, fun h3 => ?_, fun h1 h2 h3 => ?_⟩
  · have hd := decodeEvent_cellinfo s.variant h2
    rw [hd] at hdec
    exact ⟨(onFrameRow_eq_decode hw hf (frameTypeOf_eq_cellinfo_iff.mpr h2) hd).trans hdec, hdec⟩
  · have hd := decodeEvent_deviceinfo s.variant h3
    rw [hd] at hdec
    exact ⟨(onFrameRow_eq_decode hw hf (frameTypeOf_eq_deviceinfo_iff.mpr h3) hd).trans hdec, hdec⟩
  · have hd := decodeEvent_unknown s.variant h1 h2 h3
    rw [hd] at hdec
    exact ⟨(onFrameRow_eq_decode hw hf (frameTypeOf_eq_unknown_iff.mpr ⟨h1, h2, h3⟩) hd).trans hdec, hdec⟩

/-- Settles O33. -/
theorem settingsFrameIsUnhandledWithoutAFlag : Obligations.SettingsFrameIsUnhandledWithoutAFlag := by
  intro s f hw hf h1
  exact onFrameRow_of_type hw hf (frameTypeOf_eq_settings_iff.mpr h1) decodeSettings

/-- Settles O34: of a block that is not built neither the row nor DECODE has a meaning. -/
theorem frameRowsAreTheCasesOfDecode : Obligations.FrameRowsAreTheCasesOfDecode := by
  refine ⟨fun s f i h => ?_, fun s f hw => ⟨fun h => ?_, fun h => ?_, fun h => ?_, fun h => ?_⟩⟩
  · cases hw : descriptorWf s.variant with
    | true => exact exec_of_decodeFrame hw h
    | false => rw [illFormedDescriptorIsRefused.2 _ s hw, illFormedDescriptorIsRefused.2 _ s hw]
  · exact onFrameRow_refused hw (by rwa [frameTypeOf_eq_cellinfo_iff]) _
  · exact onFrameRow_refused hw (by rwa [frameTypeOf_eq_deviceinfo_iff]) _
  · exact onFrameRow_refused hw (by rwa [frameTypeOf_eq_settings_iff]) _
  · refine onFrameRow_refused hw ?_ _
    rw [frameTypeOf_eq_unknown_iff]
    rintro ⟨hf, h1, h2, h3⟩
    obtain h | h | h | h := h
    · exact h hf
    · exact h1 h
    · exact h2 h
    · exact h3 h

end Sys2Proof.Machine
end

section
/-! SUPPORT. The descriptor's checks, field by field (10_state.md R25). -/

namespace Sys2Proof.Machine

/-! ## The named checks -/

section
variable {V : VariantDescriptor}

theorem maskOff_toList (V : VariantDescriptor) : V.maskOff.toList = [V.maskOff[0], V.maskOff[1], V.maskOff[2]] := by
  refine List.ext_getElem (by simp) fun i h1 h2 => ?_
  have hi : i = 0 ∨ i = 1 ∨ i = 2 := by
    simp only [List.length_cons, List.length_nil] at h2
    omega
  obtain rfl | rfl | rfl := hi <;> simp

theorem wfPayload_iff : wfPayload V = true ↔ ∀ ow ∈ descriptorFields V, 6 ≤ ow.1 ∧ ow.1 + ow.2 ≤ 299 := by
  simp only [wfPayload, List.all_eq_true, Bool.and_eq_true, decide_eq_true_eq, Config.payloadLo, Config.payloadHi]
  refine forall₂_congr fun ow _ => ?_
  omega

theorem wfVtab_iff : wfVtab V = true ↔ 24 ≤ V.vtEntries ∧ V.vtabOff + 2 * V.vtEntries ≤ 299 := by
  simp only [wfVtab, Bool.and_eq_true, decide_eq_true_eq, Config.cellsMax, Config.maskBytes, Config.payloadHi]
  omega

theorem wfMask_iff :
    wfMask V = true ↔ V.maskOff[0] ≠ V.maskOff[1] ∧ V.maskOff[0] ≠ V.maskOff[2] ∧ V.maskOff[1] ≠ V.maskOff[2] := by
  rw [wfMask, decide_eq_true_iff, maskOff_toList]
  simp [and_assoc]

theorem wfDownstream_iff :
    wfDownstream V = true ↔ V.vtabOff + 2 * V.vtEntries ≤ V.avgOff ∧ V.vtabOff + 2 * V.vtEntries ≤ V.deltaOff ∧
      V.vtabOff + 2 * V.vtEntries ≤ V.maxidxOff ∧ V.vtabOff + 2 * V.vtEntries ≤ V.minidxOff := by
  simp [wfDownstream]

theorem wfVend_iff : wfVend V = true ↔ 1 ≤ V.vendLen := decide_eq_true_iff

end

/-! ## The statement -/

/-- Settles O5: the five checks one by one; in the list of fields the table stands first. -/
theorem descriptorChecksAreTheNamedOnes : Obligations.DescriptorChecksAreTheNamedOnes := by
  intro V
  rw [descriptorWf_iff, wfPayload_iff, wfVtab_iff, wfMask_iff, wfDownstream_iff, wfVend_iff]
  refine and_congr_left fun _ => ?_
  simp only [descriptorFields, fixedFields, maskOff_toList, List.map_cons, List.map_nil, List.cons_append,
    List.nil_append, List.forall_mem_cons, List.not_mem_nil, false_implies, implies_true, and_true]
  exact ⟨fun ⟨htab, h0, h1, h2, hrest⟩ => ⟨h0, h1, h2, htab, hrest⟩,
    fun ⟨h0, h1, h2, htab, hrest⟩ => ⟨htab, h0, h1, h2, hrest⟩⟩

end Sys2Proof.Machine
end

section
/-! SUPPORT. What a decode reads of a frame (30_encoding.md R62, R68, 42_frame_decoder.md R136). -/

namespace Sys2Proof.Machine

/-! ## Frames that agree on the covered offsets -/

/-- Two frames that agree on every offset the descriptor covers when the cell count is `n`. -/
def AgreeOnCovered (V : VariantDescriptor) (n : Nat) (f g : Bytes) : Prop :=
  ∀ o, Covered V n o → u8 f o = u8 g o

section
variable {V : VariantDescriptor} {n : Nat} {f g : Bytes} (h : AgreeOnCovered V n f g)
include h

/-- Every byte of a field but the table is covered. -/
theorem AgreeOnCovered.field {o w : Nat} (hf : (o, w) ∈ fixedFields V) {j : Nat} (hj : j < w) :
    u8 f (o + j) = u8 g (o + j) :=
  h _ (.inl ⟨(o, w), hf, Nat.le_add_right o j, Nat.add_lt_add_left hj o⟩)

theorem AgreeOnCovered.u8_eq {o : Nat} (hf : (o, 1) ∈ fixedFields V) : u8 f o = u8 g o :=
  h.field hf Nat.zero_lt_one

theorem AgreeOnCovered.enabled_eq {o : Nat} (hf : (o, 1) ∈ fixedFields V) : enabled f o = enabled g o := by
  rw [enabled, enabled, h.u8_eq hf]

theorem AgreeOnCovered.u16le_eq {o : Nat} (hf : (o, 2) ∈ fixedFields V) : u16le f o = u16le g o :=
  congrArg₂ (fun a b : Byte => a ++ b) (h.field hf (by decide : 1 < 2)) (h.field hf (by decide : 0 < 2))

theorem AgreeOnCovered.u16be_eq {o : Nat} (hf : (o, 2) ∈ fixedFields V) : u16be f o = u16be g o :=
  congrArg₂ (fun a b : Byte => a ++ b) (h.field hf (by decide : 0 < 2)) (h.field hf (by decide : 1 < 2))

theorem AgreeOnCovered.u32le_eq {o : Nat} (hf : (o, 4) ∈ fixedFields V) : u32le f o = u32le g o := by
  have h0 : u8 f o = u8 g o := h.field hf (by decide : 0 < 4)
  rw [u32le, u32le, h.field hf (by decide : 3 < 4), h.field hf (by decide : 2 < 4), h.field hf (by decide : 1 < 4), h0]

theorem AgreeOnCovered.cellCount_eq : cellCount V f = cellCount V g := by
  refine congrArg List.sum (List.map_congr_left fun o ho => congrArg popcount (h.u8_eq ?_))
  simp [fixedFields, Vector.mem_toList_iff.mp ho]

/-- A table entry below the cell count is covered. -/
theorem AgreeOnCovered.cellVoltages_eq : cellVoltages V f n = cellVoltages V g n := by
  refine List.map_congr_left fun i hi => congrArg₂ (fun a b : Byte => a ++ b) (h _ (.inr ?_)) (h _ (.inr ?_))
  all_goals
    rw [List.mem_range] at hi
    omega

/-- The cell-info records of two frames that agree on what the first's own cell count covers. -/
theorem AgreeOnCovered.extractCellInfo_eq (hn : n = cellCount V f) : extractCellInfo V f = extractCellInfo V g := by
  subst hn
  simp (disch := simp [fixedFields]) only [extractCellInfo, h.cellVoltages_eq, ← h.cellCount_eq, h.u8_eq, h.u16le_eq,
    h.u16be_eq, h.u32le_eq, h.enabled_eq]

/-- The vendor windows of two whole frames. -/
theorem AgreeOnCovered.memRead_eq (hlen : f.length = g.length) :
    memRead f V.vendOff V.vendLen = memRead g V.vendOff V.vendLen := by
  refine List.ext_getElem (by simp [memRead, hlen]) fun j hf hg => ?_
  have hj : j < V.vendLen := by
    rw [memRead, List.length_take] at hf
    omega
  have hget := h.field (o := V.vendOff) (w := V.vendLen) (by simp [fixedFields]) hj
  rw [u8, u8, ← memRead_getD hj, ← memRead_getD hj] at hget
  rwa [List.getD_eq_getElem _ _ hf, List.getD_eq_getElem _ _ hg] at hget

theorem AgreeOnCovered.extractDeviceInfo_eq (hlen : f.length = g.length) :
    extractDeviceInfo V f = extractDeviceInfo V g := by
  rw [extractDeviceInfo, extractDeviceInfo, h.memRead_eq hlen]

/-- What a decode yields, where the two frames have the same type too. -/
theorem AgreeOnCovered.decodeEvent_eq (hn : n = cellCount V f) (hlen : f.length = g.length)
    (htype : f.getD 4 0#8 = g.getD 4 0#8) : decodeEvent V f = decodeEvent V g := by
  by_cases h2 : f.getD 4 0#8 = 0x02#8
  · rw [decodeEvent_cellinfo V h2, decodeEvent_cellinfo V (htype ▸ h2), h.extractCellInfo_eq hn]
  by_cases h3 : f.getD 4 0#8 = 0x03#8
  · rw [decodeEvent_deviceinfo V h3, decodeEvent_deviceinfo V (htype ▸ h3), h.extractDeviceInfo_eq hlen]
  by_cases h1 : f.getD 4 0#8 = 0x01#8
  · rw [decodeEvent_settings V h1, decodeEvent_settings V (htype ▸ h1)]
  · rw [decodeEvent_unknown V h1 h2 h3, decodeEvent_unknown V (htype ▸ h1) (htype ▸ h2) (htype ▸ h3), htype]

end

/-! ## The statements -/

/-- Settles O36. -/
theorem decodeReadsOnlyCoveredBytes : Obligations.DecodeReadsOnlyCoveredBytes := by
  intro s f g hf hg htype hcov
  have hagree : AgreeOnCovered s.variant (cellCount s.variant f) f g := hcov
  cases hw : descriptorWf s.variant with
  | true =>
    rw [execDecode_assembled hw hf, execDecode_assembled hw hg,
      hagree.decodeEvent_eq rfl (hf.trans hg.symm) htype]
  | false => rw [illFormedDescriptorIsRefused.2 _ s hw, illFormedDescriptorIsRefused.2 _ s hw]

/-- Settles O45: a covered offset lies in a field, or in one of the table's first 24 entries. -/
theorem readsStayInsideThePayload : Obligations.ReadsStayInsideThePayload := by
  rintro V f o hV (⟨⟨o', w⟩, hf, hlo, hhi⟩ | ⟨hlo, hhi⟩)
  · have hfield := field_in_payload hV (fixedFields_subset hf)
    simp only [Config.payloadLo, Config.payloadHi] at hfield
    omega
  · have hcount := cellCount_le V f
    have hentry := table_in_payload hV (i := (o - V.vtabOff) / 2) (by omega)
    simp only [Config.payloadLo, Config.payloadHi] at hentry
    omega

end Sys2Proof.Machine
end

section
/-! SUPPORT. The fields of a cell-info record and their readings (43_bitfield_extractor.md R141-R168, 00_scope.md R12,
R15). -/

namespace Sys2Proof.Machine

/-! ## The cell count -/

theorem popcount_eq_length (b : Byte) : popcount b = ((List.range 8).filter fun i => b.getLsbD i).length :=
  List.countP_eq_length_filter

theorem cellCount_eq_length (V : VariantDescriptor) (f : Bytes) :
    cellCount V f =
      (V.maskOff.toList.flatMap fun o => (List.range 8).filter fun i => (f.getD o 0#8).getLsbD i).length := by
  rw [List.length_flatMap]
  exact congrArg List.sum (List.map_congr_left fun o _ => popcount_eq_length _)

/-! ## The voltages -/

theorem cellVoltages_getD (V : VariantDescriptor) (f : Bytes) {n i : Nat} (h : i < n) :
    (cellVoltages V f n).getD i 0#16 = u16le f (V.vtabOff + 2 * i) := by
  simp [cellVoltages, List.getD_eq_getElem?_getD, h]

/-! ## The balancing state and its array -/

/-- The balancing state of each byte (43_bitfield_extractor.md R147). -/
theorem balState_cases (b : Byte) :
    (b = 0x00#8 ∧ balState b = .off) ∨ (b = 0x01#8 ∧ balState b = .charging) ∨
      (b = 0x02#8 ∧ balState b = .discharging) ∨ (3 ≤ b.toNat ∧ balState b = .invalid b) := by
  by_cases h0 : b = 0x00#8
  · subst h0; exact .inl ⟨rfl, rfl⟩
  by_cases h1 : b = 0x01#8
  · subst h1; exact .inr (.inl ⟨rfl, rfl⟩)
  by_cases h2 : b = 0x02#8
  · subst h2; exact .inr (.inr (.inl ⟨rfl, rfl⟩))
  · have h3 : 3 ≤ b.toNat := by bv_omega
    refine .inr (.inr (.inr ⟨h3, ?_⟩))
    unfold balState
    split
    case h_4 => rfl
    all_goals omega

/-- Which byte each balancing state stands for. -/
theorem balState_spec (b : Byte) :
    (balState b = .off ↔ b = 0x00#8) ∧ (balState b = .charging ↔ b = 0x01#8) ∧
      (balState b = .discharging ↔ b = 0x02#8) ∧ (3 ≤ b.toNat → balState b = .invalid b) := by
  obtain ⟨rfl, h⟩ | ⟨rfl, h⟩ | ⟨rfl, h⟩ | ⟨h3, h⟩ := balState_cases b
  · simp [h]
  · simp [h]
  · simp [h]
  · have h0 : b ≠ 0x00#8 := by bv_omega
    have h1 : b ≠ 0x01#8 := by bv_omega
    have h2 : b ≠ 0x02#8 := by bv_omega
    simp [h, h0, h1, h2]

/-- Entry `i` of the array is set exactly at the target of the state (43_bitfield_extractor.md R150). -/
theorem balanceArray_getD {n i : Nat} (h : i < n) (state chg dis : Byte) :
    (balanceArray n state chg dis).getD i false = true ↔
      (balState state = .charging ∧ i = chg.toNat) ∨ (balState state = .discharging ∧ i = dis.toNat) := by
  simp only [balanceArray, List.getD_eq_getElem?_getD, List.getElem?_map, List.getElem?_range h, Option.map_some,
    Option.getD_some]
  cases balState state <;> simp

/-! ## Scaled quantities -/

theorem mul_scaled_milli (x : Int) : 1000 * scaled milli x = x := by
  unfold scaled milli
  ring

theorem mul_scaled_deci (x : Int) : 10 * scaled deci x = x := by
  unfold scaled deci
  ring

theorem mul_scaled_milli_nat (n : Nat) : 1000 * scaled milli n = n := mul_scaled_milli n

/-- A signed reading is the field's number, less `2 ^ 16` where the top bit is set. -/
theorem signed16_spec (h : Half) :
    signed16 h = (h.toNat : Int) - (if 2 ^ 15 ≤ h.toNat then 2 ^ 16 else 0) ∧
      -32768 ≤ signed16 h ∧ signed16 h ≤ 32767 := by
  have := h.isLt
  unfold signed16 sext
  split_ifs <;> omega

/-- A signed reading is the field's number, less `2 ^ 32` where the top bit is set. -/
theorem signed32_spec (w : Word) :
    signed32 w = (w.toNat : Int) - (if 2 ^ 31 ≤ w.toNat then 2 ^ 32 else 0) ∧
      -2 ^ 31 ≤ signed32 w ∧ signed32 w < 2 ^ 31 := by
  have := w.isLt
  unfold signed32 sext
  split_ifs <;> omega

theorem cellVolts_getD (r : CellInfo) {i : Nat} (h : i < r.cellMv.length) :
    1000 * r.cellVolts.getD i 0 = (r.cellMv.getD i 0#16).toNat := by
  simp only [CellInfo.cellVolts, List.getD_eq_getElem?_getD, List.getElem?_map, List.getElem?_eq_getElem h,
    Option.map_some, Option.getD_some]
  exact mul_scaled_milli_nat _

/-! ## The statements -/

/-- Settles O37. -/
theorem cellCountIsThePopulationCount : Obligations.CellCountIsThePopulationCount :=
  fun V f => ⟨cellCount_eq_length V f, cellCount_le V f⟩

/-- Settles O38. -/
theorem cellVoltagesAreTheFirstTableEntries : Obligations.CellVoltagesAreTheFirstTableEntries := by
  intro V f
  refine ⟨cellVoltages_length V f _, fun i hi => ?_⟩
  rw [← u16le_num16]
  exact congrArg BitVec.toNat (cellVoltages_getD V f hi)

/-- Settles O39: each field is a reading primitive at its offset, and each primitive's number is the statement's. -/
theorem recordFieldsAreReadAtTheirOffsets : Obligations.RecordFieldsAreReadAtTheirOffsets := by
  intro V f
  refine ⟨⟨u16le_num16 f _, u16le_num16 f _, rfl, rfl, rfl, rfl, rfl, u16le_num16 f _⟩, ?_, ?_⟩
  · exact ⟨u32le_num32 f _, u32le_num32 f _, u16le_num16 f _, u16le_num16 f _, u16le_num16 f _, u16be_toNat f _, rfl⟩
  · exact ⟨u32le_num32 f _, u32le_num32 f _, u32le_num32 f _, u32le_num32 f _, u32le_num32 f _, enabled_iff,
      enabled_iff, enabled_iff, u16le_num16 f _⟩

/-- Settles O41. -/
theorem balanceArrayMarksTheTarget : Obligations.BalanceArrayMarksTheTarget := by
  intro V f
  obtain ⟨hoff, hcharging, hdischarging, hinvalid⟩ := balState_spec (u8 f V.balstateOff)
  refine ⟨balanceArray_length _ _ _ _, fun i hi => ?_, hoff, hcharging, hdischarging, hinvalid⟩
  refine (balanceArray_getD hi _ _ _).trans ?_
  rw [hcharging, hdischarging]
  rfl

/-- Settles O44. -/
theorem signedReadingsAreTwosComplement : Obligations.SignedReadingsAreTwosComplement := by
  refine ⟨signed16_spec, signed32_spec, fun r => ⟨⟨List.length_map _, fun i hi => cellVolts_getD r hi⟩, ?_, ?_, ?_, ?_,
    rfl, rfl, rfl, rfl⟩⟩
  · exact ⟨mul_scaled_milli_nat _, mul_scaled_milli_nat _⟩
  · exact ⟨mul_scaled_milli _, mul_scaled_milli _, mul_scaled_milli _⟩
  · exact ⟨mul_scaled_deci _, mul_scaled_deci _, mul_scaled_deci _⟩
  · exact ⟨mul_scaled_milli_nat _, mul_scaled_milli_nat _, mul_scaled_milli_nat _⟩

end Sys2Proof.Machine
end

section
/-! SUPPORT. The byte form of responses and records, and the record read back from its bytes (30_encoding.md
R75-R79). -/

namespace Sys2Proof.Machine

/-! ## The flag byte -/

theorem diag_toByte_toNat (d : Diag) :
    d.toByte.toNat = d.overflow.toNat + 2 * d.resync.toNat + 4 * d.csumMismatch.toNat + 8 * d.unknownType.toNat := by
  obtain ⟨o, r, c, u⟩ := d
  revert o r c u
  decide

/-! ## A record whose lists have the sizes its count gives -/

/-- `N` voltages and `N` balance entries, `N` at most 24 (30_encoding.md R76, 43_bitfield_extractor.md R141). -/
structure CellInfo.Sized (r : CellInfo) : Prop where
  cellMv_length : r.cellMv.length = r.cellCount
  balActive_length : r.balActive.length = r.cellCount
  count_le : r.cellCount ≤ 24

theorem extractCellInfo_sized (V : VariantDescriptor) (f : Bytes) : (extractCellInfo V f).Sized :=
  ⟨cellVoltages_length V f _, balanceArray_length _ _ _ _, cellCount_le V f⟩

section
variable {r : CellInfo} (h : r.Sized)
include h

theorem CellInfo.Sized.toBytes_zero : (r.toBytes.getD 0 0#8).toNat = r.cellCount := by
  have hle := h.count_le
  rw [CellInfo.toBytes, List.getD_cons_zero, BitVec.toNat_ofNat]
  omega

theorem CellInfo.Sized.toBytes_voltage {i : Nat} (hi : i < r.cellCount) :
    num16 r.toBytes (1 + 2 * i) = (r.cellMv.getD i 0#16).toNat := by
  rw [← num16_drop, CellInfo.toBytes, List.drop_succ_cons, List.drop_zero]
  exact voltages_num16 _ _ _ (h.cellMv_length ▸ hi)

/-- The fields after the voltages stand from byte `1 + 2N` on. -/
theorem CellInfo.Sized.toBytes_drop : r.toBytes.drop (1 + 2 * r.cellCount) = cellInfoTail r := by
  have hlen : (r.cellMv.flatMap bytes16le).length = 2 * r.cellCount := by rw [voltages_length, h.cellMv_length]
  rw [CellInfo.toBytes, Nat.add_comm, List.drop_succ_cons, ← hlen, List.drop_left]

theorem CellInfo.Sized.toBytes_length : r.toBytes.length = 1 + 2 * r.cellCount + 55 := by
  rw [CellInfo.toBytes, List.length_cons, List.length_append, voltages_length, h.cellMv_length, cellInfoTail_length]
  omega

theorem CellInfo.Sized.toBytes_num16 (k : Nat) :
    num16 r.toBytes (1 + 2 * r.cellCount + k) = num16 (cellInfoTail r) k := by
  rw [← num16_drop, h.toBytes_drop]

theorem CellInfo.Sized.toBytes_num32 (k : Nat) :
    num32 r.toBytes (1 + 2 * r.cellCount + k) = num32 (cellInfoTail r) k := by
  rw [← num32_drop, h.toBytes_drop]

theorem CellInfo.Sized.toBytes_getD (k : Nat) :
    r.toBytes.getD (1 + 2 * r.cellCount + k) 0#8 = (cellInfoTail r).getD k 0#8 := by
  rw [← getD_drop_eq, h.toBytes_drop]

end

/-! ## The record read back -/

/-- The cell-info record that the bytes `q` stand for, field by field after 30_encoding.md R76; `t` holds the bytes
after the voltages. -/
def cellInfoOfBytes (q : Bytes) : CellInfo :=
  let n := (u8 q 0).toNat
  let t := q.drop (1 + 2 * n)
  { cellCount := n
    cellMv := (List.range n).map fun i => u16le q (1 + 2 * i)
    avgMv := u16le t 0
    deltaMv := u16le t 2
    maxIdx := u8 t 4
    minIdx := u8 t 5
    balStateRaw := u8 t 6
    balDisIdx := u8 t 7
    balChgIdx := u8 t 8
    balActive := (List.range n).map fun i => (u32le t 9).toNat.testBit i
    balCurRaw := u16le t 13
    packMvRaw := u32le t 15
    curMaRaw := u32le t 19
    t1Raw := u16le t 23
    t2Raw := u16le t 25
    tmosRaw := u16le t 27
    faultMask := u16le t 29
    soc := u8 t 31
    remcapRaw := u32le t 32
    totcapRaw := u32le t 36
    cyccnt := u32le t 40
    cyccapRaw := u32le t 44
    runtimeS := u32le t 48
    chgEn := (u8 t 52).toNat.testBit 0
    disEn := (u8 t 52).toNat.testBit 1
    heatEn := (u8 t 52).toNat.testBit 2
    heatCurRaw := u16le t 53 }

theorem u8_eq_of_getD {q : Bytes} {o : Nat} {x : Byte} (h : q.getD o 0#8 = x) : u8 q o = x := h

theorem u16le_eq_of_num16 {q : Bytes} {o : Nat} {x : Half} (h : num16 q o = x.toNat) : u16le q o = x :=
  BitVec.eq_of_toNat_eq ((u16le_num16 q o).trans h)

theorem u32le_eq_of_num32 {q : Bytes} {o : Nat} {x : Word} (h : num32 q o = x.toNat) : u32le q o = x :=
  BitVec.eq_of_toNat_eq ((u32le_num32 q o).trans h)

/-- The three flags stand in bits 0..2 of the enable byte. -/
theorem enFlags_testBit (r : CellInfo) :
    (enFlags r).toNat.testBit 0 = r.chgEn ∧ (enFlags r).toNat.testBit 1 = r.disEn ∧
      (enFlags r).toNat.testBit 2 = r.heatEn := by
  rw [enFlags_toNat]
  generalize r.chgEn = a
  generalize r.disEn = b
  generalize r.heatEn = c
  revert a b c
  decide

section
variable {r : CellInfo} (h : r.Sized)
include h

theorem CellInfo.Sized.voltages_eq :
    ((List.range r.cellCount).map fun i => u16le r.toBytes (1 + 2 * i)) = r.cellMv := by
  refine List.ext_getElem (by rw [List.length_map, List.length_range, h.cellMv_length]) fun i h1 h2 => ?_
  rw [List.getElem_map, List.getElem_range]
  refine u16le_eq_of_num16 ((h.toBytes_voltage (h.cellMv_length ▸ h2)).trans ?_)
  rw [List.getD_eq_getElem _ _ h2]

theorem CellInfo.Sized.balActive_eq :
    ((List.range r.cellCount).map fun i => (balBitmap r.balActive).toNat.testBit i) = r.balActive := by
  have hle := h.count_le
  refine List.ext_getElem (by rw [List.length_map, List.length_range, h.balActive_length]) fun i h1 h2 => ?_
  rw [List.getElem_map, List.getElem_range, balBitmap_testBit _ _ (by rw [h.balActive_length] at h2; omega),
    List.getD_eq_getElem _ _ h2]

/-- Reading a record's bytes gives the record back. -/
theorem CellInfo.Sized.ofBytes_toBytes : cellInfoOfBytes r.toBytes = r := by
  obtain ⟨hchg, hdis, hheat⟩ := enFlags_testBit r
  have hcount : (u8 r.toBytes 0).toNat = r.cellCount := h.toBytes_zero
  have hbitmap : u32le (cellInfoTail r) 9 = balBitmap r.balActive := u32le_eq_of_num32 (cellInfoTail_num32_at_9 r)
  have hen : u8 (cellInfoTail r) 52 = enFlags r := cellInfoTail_byte_at_52 r
  simp only [cellInfoOfBytes, hcount, h.toBytes_drop, h.voltages_eq, hbitmap, h.balActive_eq, hen, hchg, hdis, hheat,
    u8_eq_of_getD (cellInfoTail_byte_at_4 r), u8_eq_of_getD (cellInfoTail_byte_at_5 r),
    u8_eq_of_getD (cellInfoTail_byte_at_6 r), u8_eq_of_getD (cellInfoTail_byte_at_7 r),
    u8_eq_of_getD (cellInfoTail_byte_at_8 r), u8_eq_of_getD (cellInfoTail_byte_at_31 r),
    u16le_eq_of_num16 (cellInfoTail_num16_at_0 r), u16le_eq_of_num16 (cellInfoTail_num16_at_2 r),
    u16le_eq_of_num16 (cellInfoTail_num16_at_13 r),
    u16le_eq_of_num16 (cellInfoTail_num16_at_23 r), u16le_eq_of_num16 (cellInfoTail_num16_at_25 r),
    u16le_eq_of_num16 (cellInfoTail_num16_at_27 r), u16le_eq_of_num16 (cellInfoTail_num16_at_29 r),
    u16le_eq_of_num16 (cellInfoTail_num16_at_53 r), u32le_eq_of_num32 (cellInfoTail_num32_at_15 r),
    u32le_eq_of_num32 (cellInfoTail_num32_at_19 r), u32le_eq_of_num32 (cellInfoTail_num32_at_32 r),
    u32le_eq_of_num32 (cellInfoTail_num32_at_36 r), u32le_eq_of_num32 (cellInfoTail_num32_at_40 r),
    u32le_eq_of_num32 (cellInfoTail_num32_at_44 r), u32le_eq_of_num32 (cellInfoTail_num32_at_48 r)]

end

/-! ## The statements -/

/-- Settles O46. -/
theorem responseBytesFollowTheFormat : Obligations.ResponseBytesFollowTheFormat := by
  refine ⟨fun r => ?_, diag_toByte_toNat, ⟨rfl, fun b => rfl, rfl, fun f => rfl, fun b => rfl, fun b => rfl,
    fun e => rfl⟩, rfl, fun t => rfl, fun r => rfl, fun d => rfl⟩
  obtain ⟨st, d, x⟩ := r
  cases st <;> rfl

/-- Settles O47: the fields after the voltages are those of `cellInfoTail`, each at its place there. -/
theorem cellInfoBytesHaveTheirLayout : Obligations.CellInfoBytesHaveTheirLayout := by
  intro V f r q a
  have h : r.Sized := extractCellInfo_sized V f
  have n16 (k : Nat) : num16 q (a + k) = num16 (cellInfoTail r) k := h.toBytes_num16 k
  have n32 (k : Nat) : num32 q (a + k) = num32 (cellInfoTail r) k := h.toBytes_num32 k
  have byte (k : Nat) : q.getD (a + k) 0#8 = (cellInfoTail r).getD k 0#8 := h.toBytes_getD k
  refine ⟨⟨h.toBytes_length, h.toBytes_zero, fun i hi => h.toBytes_voltage hi⟩, ?_, fun i hi => ?_, ?_, ?_⟩
  · exact ⟨(n16 0).trans (cellInfoTail_num16_at_0 r), (n16 2).trans (cellInfoTail_num16_at_2 r),
      (byte 4).trans (cellInfoTail_byte_at_4 r), (byte 5).trans (cellInfoTail_byte_at_5 r),
      (byte 6).trans (cellInfoTail_byte_at_6 r), (byte 7).trans (cellInfoTail_byte_at_7 r),
      (byte 8).trans (cellInfoTail_byte_at_8 r)⟩
  · rw [n32, cellInfoTail_num32_at_9]
    exact balBitmap_testBit _ i hi
  · exact ⟨(n16 13).trans (cellInfoTail_num16_at_13 r), (n32 15).trans (cellInfoTail_num32_at_15 r),
      (n32 19).trans (cellInfoTail_num32_at_19 r), (n16 23).trans (cellInfoTail_num16_at_23 r),
      (n16 25).trans (cellInfoTail_num16_at_25 r), (n16 27).trans (cellInfoTail_num16_at_27 r),
      (n16 29).trans (cellInfoTail_num16_at_29 r), (byte 31).trans (cellInfoTail_byte_at_31 r)⟩
  · refine ⟨(n32 32).trans (cellInfoTail_num32_at_32 r), (n32 36).trans (cellInfoTail_num32_at_36 r),
      (n32 40).trans (cellInfoTail_num32_at_40 r), (n32 44).trans (cellInfoTail_num32_at_44 r),
      (n32 48).trans (cellInfoTail_num32_at_48 r), ?_, (n16 53).trans (cellInfoTail_num16_at_53 r)⟩
    rw [byte, cellInfoTail_byte_at_52, enFlags_toNat]

/-- Settles O48: a decoded record is read back from its bytes. -/
theorem cellInfoBytesDetermineTheRecord : Obligations.CellInfoBytesDetermineTheRecord := by
  intro V V' f f' h
  calc extractCellInfo V f = cellInfoOfBytes (extractCellInfo V f).toBytes :=
        (extractCellInfo_sized V f).ofBytes_toBytes.symm
    _ = cellInfoOfBytes (extractCellInfo V' f').toBytes := congrArg cellInfoOfBytes h
    _ = extractCellInfo V' f' := (extractCellInfo_sized V' f').ofBytes_toBytes

/-- Settles O49: the window is shorter than a frame, so its length fits the two bytes. -/
theorem deviceInfoBytesHaveTheirLayout : Obligations.DeviceInfoBytesHaveTheirLayout := by
  intro V f hV hf d
  obtain ⟨hle, hlen, -, -, -, hhi⟩ := vendorStringEndsAtTheFirstNul V f hV hf
  have hsmall : d.vendorLen < 2 ^ 16 := by
    have hd : d.vendorLen ≤ V.vendLen := hle
    omega
  refine ⟨?_, ?_, rfl⟩
  · rw [DeviceInfo.toBytes, List.length_append, hlen]
    rfl
  · rw [DeviceInfo.toBytes, num16_bytes16le, BitVec.toNat_ofNat, Nat.mod_eq_of_lt hsmall]

end Sys2Proof.Machine
end
